-- ==== Sys2Proof/Word.lean ====
section
/-!
DEFINITION. The word types of the block (spec/00_scope.md R8: `u8`, `u16`, `u32`, `Bit`).
-/

namespace Sys2Proof

/-- `u8`, a byte (R8). -/
abbrev Byte := BitVec 8

/-- `u16`: an operand field of a request word, a 16-bit payload field (R8, R51). -/
abbrev Half := BitVec 16

/-- `u32`: a word written to a GPIO register, a bank's output latches (R8, R17). -/
abbrev Word := BitVec 32

/-- A request word of 72 bits (R51). -/
abbrev ReqWord := BitVec 72

/-- `Bit` (R8): the level of a line or a one-bit operand; `true` is 1, `false` is 0. -/
abbrev Bit := Bool

end Sys2Proof
end

