-- ==== Sys2Proof/Config.lean ====
section
/-!
DEFINITION. The parameters of spec/00_scope.md R4: the ones the source gives are numbers here, the
OPEN ones are the fields of `Config`, and the machine runs under the opaque constant `Config.chip`
(R5: fixed before reset and constant for the whole run; notes/assumptions/7.md). The four reset
levels that R23 leaves "unspecified ... free inputs of the launch" are the fields of `Launch`
(notes/assumptions/9.md).
-/

namespace Sys2Proof

/-- `STROBE_IMPL` of R4: the two bus-strobe mechanisms. No rule depends on which it is (R32). -/
inductive StrobeImpl where
  | pulseGenerator
  | lineToggle
  deriving DecidableEq, Repr, Inhabited

/-- The OPEN parameters of R4. `gpioOrder` stands for `PINMAP`: bit `i` of a byte is on the GPIO
that the permutation gives `i` (`Config.pin`), so `PINMAP` is injective by construction, as R6
asks, and every injective `PINMAP` arises so (`Laws.every_pinmap_arises`; notes/assumptions/8.md). -/
structure Config where
  gpioOrder  : Equiv.Perm (Fin 64)
  cmdSwreset : Byte
  cmdSlpin   : Byte
  cmdSlpout  : Byte
  cmdNoron   : Byte
  cmdInvoff  : Byte
  cmdInvon   : Byte
  cmdDispon  : Byte
  cmdCaset   : Byte
  cmdRaset   : Byte
  cmdRamwr   : Byte
  cmdVscrdef : Byte
  cmdMadctl  : Byte
  cmdVscsad  : Byte
  cmdColmod  : Byte
  /-- `ROT_TABLE`, the ROT table space of R34. -/
  rotTable   : Fin 4 → Byte
  colmodInit : Byte
  initInvert : Bit
  tWake      : Nat
  tColmod    : Nat
  tOrient    : Nat
  tInvert    : Nat
  tNoron     : Nat
  tBl        : Nat
  tDispon    : Nat
  strobeImpl : StrobeImpl
  deriving Inhabited

/-- The reset levels R23 leaves unspecified (93 U10: any value, free inputs of the launch). -/
structure Launch where
  outLo : Word
  outHi : Word
  dc    : Bit
  rst   : Bit
  deriving DecidableEq, Repr, Inhabited

/-- The configuration the machine runs under. It has no body: nothing can evaluate it, so a theorem
about the machine holds for every configuration of R4 and R6. -/
opaque Config.chip : Config

/-- The launch inputs of R23. No body: any four values. -/
opaque Config.launch : Launch

/-- `PANEL_W` of R4. -/
def Config.panelW : Nat := 320
/-- `PANEL_H` of R4. -/
def Config.panelH : Nat := 480
/-- `T_RST_LOW` of R4, in milliseconds. -/
def Config.tRstLow : Nat := 5
/-- `T_RST_HIGH` of R4, in milliseconds. -/
def Config.tRstHigh : Nat := 20
/-- `T_RST_SETTLE` of R4, in milliseconds. -/
def Config.tRstSettle : Nat := 150
/-- `BURST_PIXELS` of R4 (used by the host layer only, R141). -/
def Config.burstPixels : Nat := 256

/-- `PINMAP(i)`: the GPIO number, 0 to 63, of data pin `i` (R4). -/
def Config.pin (c : Config) (i : Fin 8) : Fin 64 :=
  c.gpioOrder (i.castLE (by decide))

/-- `CFG_REF` of R4 with `PINMAP_A`, the identity. Its codes, rotation bytes and colour mode are
general knowledge of the spec's author (93 G2 to G4), used by the tests alone (notes/assumptions/27.md).
The settle delays are OPEN there too: the numbers 1 to 7 only tell them apart. -/
def Config.ref : Config where
  gpioOrder  := Equiv.refl (Fin 64)
  cmdSwreset := 0x01
  cmdSlpin   := 0x10
  cmdSlpout  := 0x11
  cmdNoron   := 0x13
  cmdInvoff  := 0x20
  cmdInvon   := 0x21
  cmdDispon  := 0x29
  cmdCaset   := 0x2A
  cmdRaset   := 0x2B
  cmdRamwr   := 0x2C
  cmdVscrdef := 0x33
  cmdMadctl  := 0x36
  cmdVscsad  := 0x37
  cmdColmod  := 0x3A
  rotTable   := ![0x48, 0x28, 0x88, 0xE8]
  colmodInit := 0x55
  initInvert := true
  tWake      := 1
  tColmod    := 2
  tOrient    := 3
  tInvert    := 4
  tNoron     := 5
  tBl        := 6
  tDispon    := 7
  strobeImpl := .pulseGenerator

/-- `CFG_REF` with `PINMAP_B` = (9, 46, 3, 8, 18, 17, 16, 15) for bits 0 to 7 (R4, R75). -/
def Config.refB : Config :=
  { Config.ref with
    gpioOrder :=
      Equiv.swap 0 9 * Equiv.swap 1 46 * (Equiv.swap 2 8 * Equiv.swap 2 3)
        * Equiv.swap 4 18 * Equiv.swap 5 17 * Equiv.swap 6 16 * Equiv.swap 7 15 }

end Sys2Proof
end

