-- ==== Sys2Proof/Machine/State.lean ====
section
/-!
DEFINITION. The state record of the block (spec/10_state.md R13), its reset value (R23), the event
alphabet (spec/00_scope.md R9) and the reasons a step can stop. The block has no memory, no register
file, no program counter, no flags and no modes (R10, R11, R12, R30).
-/

namespace Sys2Proof.Machine

/-- The four write-only GPIO registers (R31); the spec gives them no numeric address (R39). -/
inductive GpioReg where
  | setLo
  | setHi
  | clrLo
  | clrHi
  deriving DecidableEq, Repr

/-- The four lines that hold a level (R32). -/
inductive Line where
  | cs
  | dc
  | rst
  | bl
  deriving DecidableEq, Repr

/-- The event alphabet `Ev` (R9): `write` is `W_SET_LO(w)`, `W_SET_HI(w)`, `W_CLR_LO(w)`,
`W_CLR_HI(w)` by its register, `line` is `CS(l)`, `DC(l)`, `RST(l)`, `BL(l)` by its line. -/
inductive Event where
  /-- A 32-bit write of `w` to a GPIO register. -/
  | write (r : GpioReg) (w : Word)
  /-- `STROBE`: one strobe pulse. -/
  | strobe
  /-- The line is driven to the level. -/
  | line (l : Line) (v : Bit)
  /-- `DELAY(t)`: a blocking sleep of at least `t` milliseconds (R200). -/
  | delay (t : Nat)
  deriving DecidableEq, Repr

/-- What the controller is offered at one strobe: `(S.cs, S.dc, bus(S))` (R20). -/
structure Latch where
  cs   : Bit
  dc   : Bit
  byte : Byte
  deriving DecidableEq, Repr

/-- The state record (R13). The last two fields are the model's own: the requests and the payload
bytes the host has issued and the block has not taken yet (R51, R52; notes/assumptions/2.md). -/
structure State where
  /-- `S.last`: the last byte put on the data pins, if any (R14). -/
  last        : Option Byte
  /-- `S.orientation`: the rotation index (R15). -/
  orientation : Fin 4
  /-- `S.width`: the current logical width (R16). -/
  width       : Nat
  /-- `S.height`: the current logical height (R16). -/
  height      : Nat
  /-- `S.out_lo`: the output latches of GPIO 0 to 31 (R17). -/
  outLo       : Word
  /-- `S.out_hi`: the output latches of GPIO 32 to 63 (R17). -/
  outHi       : Word
  /-- `S.cs`: the chip-select line (R18). -/
  cs          : Bit
  /-- `S.dc`: the command/data line (R18). -/
  dc          : Bit
  /-- `S.rst`: the reset line (R18). -/
  rst         : Bit
  /-- `S.bl`: the backlight line (R18). -/
  bl          : Bit
  /-- `S.trace`: every event since reset, oldest first (R19). -/
  trace       : List Event
  /-- `S.latched`: what was offered at each strobe since reset, oldest first (R20). -/
  latched     : List Latch
  /-- The host's request words not yet taken, oldest first. -/
  requests    : List ReqWord
  /-- The host's payload byte stream not yet taken, oldest first. -/
  payload     : List Byte
  deriving DecidableEq, Repr

/-- The machine's faults: none. The block "raises no exception, trap or fault ... for any request in
any state" (R160; notes/assumptions/23.md). -/
inductive Fault where
  deriving DecidableEq, Repr

/-- The refusals: the decoder's verdicts (R55, R161), never an outcome of the block. -/
inductive Refusal where
  /-- Raised by an arm of `exec` for an instruction with no meaning; safe. No arm raises it. -/
  | notModelled (mnemonic : String)
  /-- Raised by `step` on a request word whose `op` is none of the 18 values (R55); safe. -/
  | reservedOp
  /-- Raised by `step` on a request word with a 1 in a must-be-zero bit (R55); safe. -/
  | reservedBits
  /-- Raised by `step` on a `WRITEFRAME` whose payload is not all there (notes/assumptions/5.md); safe. -/
  | payloadMissing
  deriving DecidableEq, Repr

/-- The reset state of R23 with the given launch levels. -/
def State.resetWith (l : Launch) : State where
  last        := none
  orientation := 0
  width       := Config.panelW
  height      := Config.panelH
  outLo       := l.outLo
  outHi       := l.outHi
  cs          := true
  dc          := l.dc
  rst         := l.rst
  bl          := false
  trace       := []
  latched     := []
  requests    := []
  payload     := []

/-- The state right after the block's reset (R23, R180), nothing requested yet. -/
def State.reset : State := .resetWith Config.launch

end Sys2Proof.Machine
end

