-- ==== Sys2Proof/Machine/Flags.lean ====
section
/-!
DEFINITION. The block has no flags (spec/10_state.md R12): these are the two tests it makes, each
"evaluated and consumed inside one operation".
-/

namespace Sys2Proof.Machine

/-- The repeated-byte test of `WRITEBYTE`: `S.last = Some(b)`; `None` equals no byte (R43, R80). -/
def repeatsLast (s : State) (b : Byte) : Bool := s.last == some b

/-- The window test: `0 <= x0 <= x1 <= width` and `0 <= y0 <= y1 <= height` on mathematical
integers, bounds included (R133). -/
def validWindow (width height : Nat) (x0 y0 x1 y1 : Int) : Bool :=
  (0 ≤ x0 && x0 ≤ x1 && x1 ≤ width) && (0 ≤ y0 && y0 ≤ y1 && y1 ≤ height)

end Sys2Proof.Machine
end

