-- ==== Sys2Proof/Machine/Mask.lean ====
section
/-!
DEFINITION. The GPIO mask table (spec/40_mask_table.md R70 to R72), as a function of `PINMAP`.
-/

namespace Sys2Proof.Machine

/-- An entry of the mask table: the four words of `MASKFOR` (R70). -/
structure MaskEntry where
  setLo : Word
  setHi : Word
  clrLo : Word
  clrHi : Word
  deriving DecidableEq, Repr

/-- The bit indices of a byte. -/
def byteBits : List (Fin 8) := [0, 1, 2, 3, 4, 5, 6, 7]

/-- `pin_lo(i)` (R71). -/
def pinLo (c : Config) (i : Fin 8) : Word :=
  if (c.pin i).val < 32 then 1#32 <<< (c.pin i).val else 0

/-- `pin_hi(i)` (R71). -/
def pinHi (c : Config) (i : Fin 8) : Word :=
  if (c.pin i).val < 32 then 0 else 1#32 <<< ((c.pin i).val - 32)

/-- The or of `pins i` over the bits `i` of `v` that are 1 (R71). -/
def orOfPins (pins : Fin 8 → Word) (v : Byte) : Word :=
  byteBits.foldr (fun i acc => (if v.getLsbD i.val then pins i else 0) ||| acc) 0

/-- `set_lo(v)` (R71). -/
def setLo (c : Config) (v : Byte) : Word := orOfPins (pinLo c) v

/-- `set_hi(v)` (R71). -/
def setHi (c : Config) (v : Byte) : Word := orOfPins (pinHi c) v

/-- `FULL_LO` (R71). -/
def fullLo (c : Config) : Word := setLo c 255

/-- `FULL_HI` (R71). -/
def fullHi (c : Config) : Word := setHi c 255

/-- `MASKFOR v` (R70): the set words (R71) and the clear words, the set words exclusive-or `FULL`,
applied once (R72, 90_conflicts.md C1). -/
def maskFor (c : Config) (v : Byte) : MaskEntry where
  setLo := setLo c v
  setHi := setHi c v
  clrLo := setLo c v ^^^ fullLo c
  clrHi := setHi c v ^^^ fullHi c

end Sys2Proof.Machine
end

