-- ==== Sys2Proof/Machine/Operands.lean ====
section
/-!
DEFINITION. The operand forms and the small computations on them (spec/20_memory.md R36, R43,
spec/00_scope.md R8).
-/

namespace Sys2Proof.Machine

/-- `hi8(v)` = bits 15:8 of a `u16` (R8, R43). -/
def hi8 (v : Half) : Byte := v.extractLsb' 8 8

/-- `lo8(v)` = bits 7:0 of a `u16` (R8, R43). -/
def lo8 (v : Half) : Byte := v.extractLsb' 0 8

/-- `be16(v)`: a 16-bit field of a payload, most significant byte first (R8, R36). -/
def be16 (v : Half) : List Byte := [hi8 v, lo8 v]

/-- `r mod 4`, the mathematical remainder, in 0 to 3 for every integer (R8, R43). -/
def rotationIndex (r : Int) : Fin 4 :=
  ⟨(r % 4).toNat, by omega⟩

/-- A window coordinate that passed the window test as a `u16` (R134: "x0, x1 are in 0..S.width, so
they are u16"; notes/assumptions/22.md). -/
def coordinate (v : Int) : Half := BitVec.ofInt 16 v

/-- `(S.width, S.height)` as a function of the orientation (R16): the width. -/
def surfaceWidth (q : Fin 4) : Nat :=
  if q = 0 ∨ q = 2 then Config.panelW else Config.panelH

/-- `(S.width, S.height)` as a function of the orientation (R16): the height. -/
def surfaceHeight (q : Fin 4) : Nat :=
  if q = 0 ∨ q = 2 then Config.panelH else Config.panelW

end Sys2Proof.Machine
end

