-- ==== Sys2Proof/Machine/Ops.lean ====
section
/-!
DEFINITION. The primitives of spec/00_scope.md R8 as operations on the state, and the actions every
request is made of. There is no exception to take and none to return from (R160, R166, R167).
-/

namespace Sys2Proof.Machine

/-- `emit e` (R8). -/
def State.emit (s : State) (e : Event) : State :=
  { s with trace := s.trace ++ [e] }

/-- `MemWrite(reg, 4, w)`: a set register ors, a clear register and-nots, and the write is an event
also when `w` is 0 (R31). -/
def State.memWrite (s : State) (r : GpioReg) (w : Word) : State :=
  match r with
  | .setLo => { s with outLo := s.outLo ||| w, trace := s.trace ++ [.write .setLo w] }
  | .setHi => { s with outHi := s.outHi ||| w, trace := s.trace ++ [.write .setHi w] }
  | .clrLo => { s with outLo := s.outLo &&& ~~~w, trace := s.trace ++ [.write .clrLo w] }
  | .clrHi => { s with outHi := s.outHi &&& ~~~w, trace := s.trace ++ [.write .clrHi w] }

/-- `line(L) <- l`: an event also when the level does not change (R8, R32). -/
def State.drive (s : State) (l : Line) (v : Bit) : State :=
  match l with
  | .cs => { s with cs := v, trace := s.trace ++ [.line .cs v] }
  | .dc => { s with dc := v, trace := s.trace ++ [.line .dc v] }
  | .rst => { s with rst := v, trace := s.trace ++ [.line .rst v] }
  | .bl => { s with bl := v, trace := s.trace ++ [.line .bl v] }

/-- The level the block drives on a GPIO: bit `p` of the low latches, or bit `p - 32` of the high
ones (R17). -/
def State.gpio (s : State) (p : Fin 64) : Bit :=
  if p.val < 32 then s.outLo.getLsbD p.val else s.outHi.getLsbD (p.val - 32)

/-- `bus(S)`: the byte on the data pins (R21). -/
def State.bus (s : State) (c : Config) : Byte :=
  BitVec.ofFnLE fun i => s.gpio (c.pin i)

/-- `strobe()`: the event, and the record of what the controller is offered (R8, R20). -/
def State.strobe (s : State) (c : Config) : State :=
  { s with trace := s.trace ++ [.strobe], latched := s.latched ++ [⟨s.cs, s.dc, s.bus c⟩] }

/-- `S.last <- Some(b)` (R80). -/
def State.recordLast (s : State) (b : Byte) : State :=
  { s with last := some b }

/-- The state writes of `ORIENT`: the index, and the sizes set from it (R106, R16). -/
def State.setOrientation (s : State) (q : Fin 4) : State :=
  { s with orientation := q, width := surfaceWidth q, height := surfaceHeight q }

/-- The four register writes of `WRITEBYTE`, in their order (R80, R81). -/
def State.writeWords (s : State) (m : MaskEntry) : State :=
  (((s.memWrite .setLo m.setLo).memWrite .setHi m.setHi).memWrite .clrLo m.clrLo).memWrite .clrHi
    m.clrHi

/-- `WRITEBYTE(b)` (R80): a repeated byte is only strobed. -/
def State.writeByte (s : State) (c : Config) (b : Byte) : State :=
  if repeatsLast s b then s.strobe c
  else ((s.writeWords (maskFor c b)).strobe c).recordLast b

/-- What the operations are made of: the primitives of R8 that act, `WRITEBYTE` and the state writes
of `ORIENT`. `call OP` is textual inclusion (R61), so an operation is a list of these. -/
inductive Act where
  /-- `line(L) <- l`. -/
  | line (l : Line) (v : Bit)
  /-- `call WRITEBYTE(b)`. -/
  | byte (b : Byte)
  /-- `delay(t)`. -/
  | delay (t : Nat)
  /-- `S.orientation`, `S.width`, `S.height` set from the index. -/
  | turn (q : Fin 4)
  deriving DecidableEq, Repr

/-- One action. -/
def perform (c : Config) (s : State) : Act → State
  | .line l v => s.drive l v
  | .byte b => s.writeByte c b
  | .delay t => s.emit (.delay t)
  | .turn q => s.setOrientation q

/-- The actions of an operation in order (R40: program order, nothing weaker). -/
def run (c : Config) (as : List Act) (s : State) : State :=
  as.foldl (perform c) s

/-- Every operation has one outcome, completion (R89, R161), under the chip's configuration. -/
def complete (as : List Act) (s : State) : Host.Outcome State Fault Refusal :=
  .next (run Config.chip as s)

end Sys2Proof.Machine
end

