-- ==== Sys2Proof/Machine/BusWriter.lean ====
section
/-!
DEFINITION. The bus writer (spec/41_bus_writer.md): `WRITEBYTE` and the four presence forms of
`WRITEFRAME`.
-/

namespace Sys2Proof.Machine

/-- The command part of a frame: DC low, then the byte (R84). -/
def commandPart : Option Byte → List Act
  | none => []
  | some k => [.line .dc false, .byte k]

/-- The data part of a frame: DC high, also when it is empty (R85), then the bytes in order (R84). -/
def dataPart : Option (List Byte) → List Act
  | none => []
  | some ds => .line .dc true :: ds.map .byte

/-- `WRITEFRAME(cmd, data)`: chip select brackets the parts (R84, R86). -/
def frame (cmd : Option Byte) (data : Option (List Byte)) : List Act :=
  .line .cs false :: (commandPart cmd ++ dataPart data ++ [.line .cs true])

/-- `WRITEBYTE b` requested by the host (R80). -/
def execWriteByte (b : Byte) (s : State) : Host.Outcome State Fault Refusal :=
  complete [.byte b] s

/-- `WRITEFRAME -, -` (R84, R85). -/
def execWriteFrameNone (s : State) : Host.Outcome State Fault Refusal :=
  complete (frame none none) s

/-- `WRITEFRAME k, -` (R84). -/
def execWriteFrameCmd (k : Byte) (s : State) : Host.Outcome State Fault Refusal :=
  complete (frame (some k) none) s

/-- `WRITEFRAME -, ds` (R84, R85). -/
def execWriteFrameData (ds : List Byte) (s : State) : Host.Outcome State Fault Refusal :=
  complete (frame none (some ds)) s

/-- `WRITEFRAME k, ds` (R84). -/
def execWriteFrameBoth (k : Byte) (ds : List Byte) (s : State) :
    Host.Outcome State Fault Refusal :=
  complete (frame (some k) (some ds)) s

end Sys2Proof.Machine
end

