-- ==== Sys2Proof/Machine/Protocol.lean ====
section
/-!
DEFINITION. The controller protocol sequencer (spec/42_controller_protocol.md): for each operation
its actions and its meaning.
-/

namespace Sys2Proof.Machine

/-- `HARDRESET`: the timed pulse on the reset line, levels as R100 gives them. -/
def hardResetActions : List Act :=
  [.line .rst false, .delay Config.tRstLow, .line .rst true, .delay Config.tRstHigh,
    .line .rst false, .delay Config.tRstSettle]

/-- `SOFTRESET` (R102). -/
def softResetActions (c : Config) : List Act := frame (some c.cmdSwreset) none

/-- `SLEEP on` (R103). -/
def sleepActions (c : Config) (on : Bit) : List Act :=
  frame (some (if on then c.cmdSlpin else c.cmdSlpout)) none

/-- `INVERT on` (R104). -/
def invertActions (c : Config) (on : Bit) : List Act :=
  frame (some (if on then c.cmdInvon else c.cmdInvoff)) none

/-- `COLORMODE m` (R105). -/
def colorModeActions (c : Config) (m : Byte) : List Act :=
  frame (some c.cmdColmod) (some [m])

/-- `ORIENT r` (R106): the state writes, then the frame with the addressing-mode byte. -/
def orientActions (c : Config) (r : Int) : List Act :=
  .turn (rotationIndex r) :: frame (some c.cmdMadctl) (some [c.rotTable (rotationIndex r)])

/-- `NORMALON` (R109). -/
def normalOnActions (c : Config) : List Act := frame (some c.cmdNoron) none

/-- `DISPLAYON` (R110). -/
def displayOnActions (c : Config) : List Act := frame (some c.cmdDispon) none

/-- `BACKLIGHT on`: a line, no frame (R111). -/
def backlightActions (on : Bit) : List Act := [.line .bl on]

/-- `INIT r`: the eight steps in their order, each but the first with its settle delay (R112). -/
def initActions (c : Config) (r : Int) : List Act :=
  hardResetActions
    ++ sleepActions c false ++ [.delay c.tWake]
    ++ colorModeActions c c.colmodInit ++ [.delay c.tColmod]
    ++ orientActions c r ++ [.delay c.tOrient]
    ++ invertActions c c.initInvert ++ [.delay c.tInvert]
    ++ normalOnActions c ++ [.delay c.tNoron]
    ++ backlightActions true ++ [.delay c.tBl]
    ++ displayOnActions c ++ [.delay c.tDispon]

/-- `HARDRESET` (R100). -/
def execHardReset (s : State) : Host.Outcome State Fault Refusal :=
  complete hardResetActions s

/-- `SOFTRESET` (R102). -/
def execSoftReset (s : State) : Host.Outcome State Fault Refusal :=
  complete (softResetActions Config.chip) s

/-- `SLEEP on` (R103). -/
def execSleep (on : Bit) (s : State) : Host.Outcome State Fault Refusal :=
  complete (sleepActions Config.chip on) s

/-- `INVERT on` (R104). -/
def execInvert (on : Bit) (s : State) : Host.Outcome State Fault Refusal :=
  complete (invertActions Config.chip on) s

/-- `COLORMODE m` (R105). -/
def execColorMode (m : Byte) (s : State) : Host.Outcome State Fault Refusal :=
  complete (colorModeActions Config.chip m) s

/-- `ORIENT r` (R106). -/
def execOrient (r : Int) (s : State) : Host.Outcome State Fault Refusal :=
  complete (orientActions Config.chip r) s

/-- `NORMALON` (R109). -/
def execNormalOn (s : State) : Host.Outcome State Fault Refusal :=
  complete (normalOnActions Config.chip) s

/-- `DISPLAYON` (R110). -/
def execDisplayOn (s : State) : Host.Outcome State Fault Refusal :=
  complete (displayOnActions Config.chip) s

/-- `BACKLIGHT on` (R111). -/
def execBacklight (on : Bit) (s : State) : Host.Outcome State Fault Refusal :=
  complete (backlightActions on) s

/-- `INIT r` (R112). -/
def execInit (r : Int) (s : State) : Host.Outcome State Fault Refusal :=
  complete (initActions Config.chip r) s

end Sys2Proof.Machine
end

