-- ==== Sys2Proof/Machine/Scroll.lean ====
section
/-!
DEFINITION. The scroll controller (spec/44_scroll.md): two pass-throughs with no check (R152).
-/

namespace Sys2Proof.Machine

/-- `VSCRDEF tfa, vsa, bfa`: a record of three big-endian fields (R150). -/
def vscrDefActions (c : Config) (tfa vsa bfa : Half) : List Act :=
  frame (some c.cmdVscrdef) (some (be16 tfa ++ be16 vsa ++ be16 bfa))

/-- `VSCSAD off`: a record of one big-endian field (R151). -/
def vscSadActions (c : Config) (off : Half) : List Act :=
  frame (some c.cmdVscsad) (some (be16 off))

/-- `VSCRDEF tfa, vsa, bfa` (R150). -/
def execVscrDef (tfa vsa bfa : Half) (s : State) : Host.Outcome State Fault Refusal :=
  complete (vscrDefActions Config.chip tfa vsa bfa) s

/-- `VSCSAD off` (R151). -/
def execVscSad (off : Half) (s : State) : Host.Outcome State Fault Refusal :=
  complete (vscSadActions Config.chip off) s

end Sys2Proof.Machine
end

