-- ==== Sys2Proof/Machine/Window.lean ====
section
/-!
DEFINITION. Window addressing and the window validator (spec/43_window.md R130 to R137).
-/

namespace Sys2Proof.Machine

/-- `CASET xs, xe`: sent as given, nothing validated (R130). -/
def casetActions (c : Config) (xs xe : Half) : List Act :=
  frame (some c.cmdCaset) (some (be16 xs ++ be16 xe))

/-- `RASET ys, ye` (R131). -/
def rasetActions (c : Config) (ys ye : Half) : List Act :=
  frame (some c.cmdRaset) (some (be16 ys ++ be16 ye))

/-- `RAMWR`: a frame of its own, with no data part (R132). -/
def ramWrActions (c : Config) : List Act := frame (some c.cmdRamwr) none

/-- `SETWINDOW` on a surface of this size: three frames when the window is valid, else nothing at
all (R134, R135). -/
def setWindowActions (c : Config) (width height : Nat) (x0 y0 x1 y1 : Int) : List Act :=
  if validWindow width height x0 y0 x1 y1 then
    casetActions c (coordinate x0) (coordinate x1)
      ++ rasetActions c (coordinate y0) (coordinate y1)
      ++ ramWrActions c
  else []

/-- `CASET xs, xe` (R130). -/
def execCaset (xs xe : Half) (s : State) : Host.Outcome State Fault Refusal :=
  complete (casetActions Config.chip xs xe) s

/-- `RASET ys, ye` (R131). -/
def execRaset (ys ye : Half) (s : State) : Host.Outcome State Fault Refusal :=
  complete (rasetActions Config.chip ys ye) s

/-- `RAMWR` (R132). -/
def execRamWr (s : State) : Host.Outcome State Fault Refusal :=
  complete (ramWrActions Config.chip) s

/-- `SETWINDOW x0, y0, x1, y1` (R134): the sizes are read at the moment of the request (R133). -/
def execSetWindow (x0 y0 x1 y1 : Int) (s : State) : Host.Outcome State Fault Refusal :=
  complete (setWindowActions Config.chip s.width s.height x0 y0 x1 y1) s

end Sys2Proof.Machine
end

