-- ==== Sys2Proof/Syntax.lean ====
section
/-!
DEFINITION. The requests the host can make (spec/00_scope.md R7), one constructor per row of
spec/opcode_table.json, with the operand types of spec/30_encoding.md R53. `WRITEFRAME` has four
rows there, one per combination of the presence bits, and so four constructors here.
-/

namespace Sys2Proof

/-- A request. Operands that R53 calls "int" are integers, `Bit` operands are `Bit`, the others are
words of the field's width. -/
inductive Instr where
  /-- `WRITEBYTE b` (R80). -/
  | writeByte (b : Byte)
  /-- `WRITEFRAME -, -`: neither part (R84). -/
  | writeFrameNone
  /-- `WRITEFRAME k, -`: a command part alone (R84). -/
  | writeFrameCmd (k : Byte)
  /-- `WRITEFRAME -, ds`: a data part alone, possibly empty (R84). -/
  | writeFrameData (ds : List Byte)
  /-- `WRITEFRAME k, ds`: both parts (R84). -/
  | writeFrameBoth (k : Byte) (ds : List Byte)
  /-- `HARDRESET` (R100). -/
  | hardReset
  /-- `SOFTRESET` (R102). -/
  | softReset
  /-- `SLEEP on` (R103). -/
  | sleep (on : Bit)
  /-- `INVERT on` (R104). -/
  | invert (on : Bit)
  /-- `COLORMODE m` (R105). -/
  | colorMode (m : Byte)
  /-- `ORIENT r` (R106). -/
  | orient (r : Int)
  /-- `NORMALON` (R109). -/
  | normalOn
  /-- `DISPLAYON` (R110). -/
  | displayOn
  /-- `BACKLIGHT on` (R111). -/
  | backlight (on : Bit)
  /-- `INIT r` (R112). -/
  | init (r : Int)
  /-- `CASET xs, xe` (R130). -/
  | caset (xs xe : Half)
  /-- `RASET ys, ye` (R131). -/
  | raset (ys ye : Half)
  /-- `RAMWR` (R132). -/
  | ramWr
  /-- `SETWINDOW x0, y0, x1, y1` (R134). -/
  | setWindow (x0 y0 x1 y1 : Int)
  /-- `VSCRDEF tfa, vsa, bfa` (R150). -/
  | vscrDef (tfa vsa bfa : Half)
  /-- `VSCSAD off` (R151). -/
  | vscSad (off : Half)
  deriving DecidableEq, Repr

end Sys2Proof
end

