-- ==== Sys2Proof/Machine/Dispatch.lean ====
section
/-!
DEFINITION. What each request does: one arm per constructor of `Instr`, each one call of its meaning.
-/

namespace Sys2Proof.Machine

def exec (i : Instr) (s : State) : Host.Outcome State Fault Refusal :=
  match i with
  -- the bus writer (spec/41_bus_writer.md)
  | .writeByte b => Sys2Proof.Machine.execWriteByte b s
  | .writeFrameNone => Sys2Proof.Machine.execWriteFrameNone s
  | .writeFrameCmd k => Sys2Proof.Machine.execWriteFrameCmd k s
  | .writeFrameData ds => Sys2Proof.Machine.execWriteFrameData ds s
  | .writeFrameBoth k ds => Sys2Proof.Machine.execWriteFrameBoth k ds s
  -- the controller protocol (spec/42_controller_protocol.md)
  | .hardReset => Sys2Proof.Machine.execHardReset s
  | .softReset => Sys2Proof.Machine.execSoftReset s
  | .sleep on => Sys2Proof.Machine.execSleep on s
  | .invert on => Sys2Proof.Machine.execInvert on s
  | .colorMode m => Sys2Proof.Machine.execColorMode m s
  | .orient r => Sys2Proof.Machine.execOrient r s
  | .normalOn => Sys2Proof.Machine.execNormalOn s
  | .displayOn => Sys2Proof.Machine.execDisplayOn s
  | .backlight on => Sys2Proof.Machine.execBacklight on s
  | .init r => Sys2Proof.Machine.execInit r s
  -- the window (spec/43_window.md)
  | .caset xs xe => Sys2Proof.Machine.execCaset xs xe s
  | .raset ys ye => Sys2Proof.Machine.execRaset ys ye s
  | .ramWr => Sys2Proof.Machine.execRamWr s
  | .setWindow x0 y0 x1 y1 => Sys2Proof.Machine.execSetWindow x0 y0 x1 y1 s
  -- the scroll controller (spec/44_scroll.md)
  | .vscrDef tfa vsa bfa => Sys2Proof.Machine.execVscrDef tfa vsa bfa s
  | .vscSad off => Sys2Proof.Machine.execVscSad off s

end Sys2Proof.Machine
end

