-- ==== Sys2Proof/WellFormed.lean ====
section
/-!
DEFINITION. Which requests a request word can express (spec/30_encoding.md R52, R53;
spec/93_implementation_defined.md U7): an "int" operand is the sign extension of a 16-bit field, a
data part has at most 2^32 - 1 bytes.
-/

namespace Sys2Proof

/-- `v` is `sext_16` of some 16-bit field (R53). -/
def fitsField (v : Int) : Bool := -32768 ≤ v && v ≤ 32767

/-- The payload count `n = zext_32(c ++ d)` can be this data part's length (R52, R53). -/
def fitsCount (ds : List Byte) : Bool := ds.length < 2 ^ 32

/-- The request can be written as a request word and its payload. -/
def Instr.wellFormed : Instr → Bool
  | .writeByte _ => true
  | .writeFrameNone => true
  | .writeFrameCmd _ => true
  | .writeFrameData ds => fitsCount ds
  | .writeFrameBoth _ ds => fitsCount ds
  | .hardReset => true
  | .softReset => true
  | .sleep _ => true
  | .invert _ => true
  | .colorMode _ => true
  | .orient r => fitsField r
  | .normalOn => true
  | .displayOn => true
  | .backlight _ => true
  | .init r => fitsField r
  | .caset _ _ => true
  | .raset _ _ => true
  | .ramWr => true
  | .setWindow x0 y0 x1 y1 => fitsField x0 && fitsField y0 && fitsField x1 && fitsField y1
  | .vscrDef _ _ _ => true
  | .vscSad _ => true

end Sys2Proof
end

