-- ==== Sys2Proof/Decode.lean ====
section
/-!
DEFINITION. The request word (spec/30_encoding.md R51 to R55, R58): its five fields, the decoder,
total on every word and every payload stream and refusing reserved words by name, the encoder, and
the opcode table of R54 row by row.
-/

namespace Sys2Proof

/-- The fields of format `REQ` (R51). -/
structure ReqFields where
  op : Byte
  a  : Half
  b  : Half
  c  : Half
  d  : Half
  deriving DecidableEq, Repr

/-- The word with these fields: `op` in bits 71:64, `a` 63:48, `b` 47:32, `c` 31:16, `d` 15:0 (R51). -/
def ReqFields.pack (f : ReqFields) : ReqWord :=
  f.op ++ f.a ++ f.b ++ f.c ++ f.d

/-- The fields of a word (R51). -/
def ReqFields.unpack (w : ReqWord) : ReqFields where
  op := w.extractLsb' 64 8
  a  := w.extractLsb' 48 16
  b  := w.extractLsb' 32 16
  c  := w.extractLsb' 16 16
  d  := w.extractLsb' 0 16

/-- Why the decoder gives a request no meaning. -/
inductive Reject where
  /-- `op` is none of the 18 values of R53 (R55). -/
  | reservedOp
  /-- A must-be-zero bit is 1 (R55). -/
  | reservedBits
  /-- The payload stream holds fewer bytes than the word's count `n` (notes/assumptions/5.md). -/
  | payloadMissing
  deriving DecidableEq, Repr

/-- What the decoder answers: a request and the rest of the payload stream, or a rejection. -/
abbrev Decoded := Except Reject (Instr × List Byte)

/-- `a[7:0]`, a byte operand (R53). -/
def ReqFields.lowA (f : ReqFields) : Byte := f.a.extractLsb' 0 8

/-- `a[0]`, a bit operand (R53). -/
def ReqFields.bitA (f : ReqFields) : Bit := f.a.getLsbD 0

/-- The bits of `a` from bit `k` up are 0. -/
def ReqFields.zeroAFrom (f : ReqFields) (k : Nat) : Bool := f.a >>> k == 0

def ReqFields.zeroBCD (f : ReqFields) : Bool := f.b == 0 && f.c == 0 && f.d == 0

def ReqFields.zeroCD (f : ReqFields) : Bool := f.c == 0 && f.d == 0

/-- `n = zext_32(c ++ d)`, the count of payload bytes (R52, R53). -/
def ReqFields.count (f : ReqFields) : Nat := f.c.toNat * 65536 + f.d.toNat

/-- A request with nothing after its word (R51): accepted when the must-be-zero bits are 0. -/
def decodePlain (zeros : Bool) (i : Instr) (stream : List Byte) : Decoded :=
  if zeros then .ok (i, stream) else .error .reservedBits

/-- A `WRITEFRAME` with a data part: exactly `n` bytes of the stream are consumed (R52). -/
def decodeData (zeros : Bool) (n : Nat) (i : List Byte → Instr) (stream : List Byte) : Decoded :=
  if zeros then
    if stream.length < n then .error .payloadMissing
    else .ok (i (stream.take n), stream.drop n)
  else .error .reservedBits

/-- `WRITEFRAME`: `cp` = `a[8]`, `dp` = `b[0]`; which bits must be 0 depends on them (R53, R54). -/
def decodeFrame (f : ReqFields) (stream : List Byte) : Decoded :=
  let high := f.zeroAFrom 9 && f.b >>> 1 == 0
  match f.a.getLsbD 8, f.b.getLsbD 0 with
  | false, false => decodePlain (high && f.lowA == 0 && f.zeroCD) .writeFrameNone stream
  | true, false => decodePlain (high && f.zeroCD) (.writeFrameCmd f.lowA) stream
  | false, true => decodeData (high && f.lowA == 0) f.count .writeFrameData stream
  | true, true => decodeData high f.count (.writeFrameBoth f.lowA) stream

/-- The decoder over the fields of a word (R53, R55). -/
def decodeFields (f : ReqFields) (stream : List Byte) : Decoded :=
  match f.op.toNat with
  | 0x01 => decodePlain (f.zeroAFrom 8 && f.zeroBCD) (.writeByte f.lowA) stream
  | 0x02 => decodeFrame f stream
  | 0x10 => decodePlain (f.a == 0 && f.zeroBCD) .hardReset stream
  | 0x11 => decodePlain (f.a == 0 && f.zeroBCD) .softReset stream
  | 0x12 => decodePlain (f.zeroAFrom 1 && f.zeroBCD) (.sleep f.bitA) stream
  | 0x13 => decodePlain (f.zeroAFrom 1 && f.zeroBCD) (.invert f.bitA) stream
  | 0x14 => decodePlain (f.zeroAFrom 8 && f.zeroBCD) (.colorMode f.lowA) stream
  | 0x15 => decodePlain f.zeroBCD (.orient f.a.toInt) stream
  | 0x16 => decodePlain (f.a == 0 && f.zeroBCD) .normalOn stream
  | 0x17 => decodePlain (f.a == 0 && f.zeroBCD) .displayOn stream
  | 0x18 => decodePlain (f.zeroAFrom 1 && f.zeroBCD) (.backlight f.bitA) stream
  | 0x19 => decodePlain f.zeroBCD (.init f.a.toInt) stream
  | 0x20 => decodePlain f.zeroCD (.caset f.a f.b) stream
  | 0x21 => decodePlain f.zeroCD (.raset f.a f.b) stream
  | 0x22 => decodePlain (f.a == 0 && f.zeroBCD) .ramWr stream
  | 0x23 => decodePlain true (.setWindow f.a.toInt f.b.toInt f.c.toInt f.d.toInt) stream
  | 0x30 => decodePlain (f.d == 0) (.vscrDef f.a f.b f.c) stream
  | 0x31 => decodePlain f.zeroBCD (.vscSad f.a) stream
  | _ => .error .reservedOp

/-- The decoder: a request word and the payload stream give the request and the rest of the stream. -/
def decode (w : ReqWord) (stream : List Byte) : Decoded :=
  decodeFields (.unpack w) stream

/-! ### The encoder (R51 to R53) -/

/-- A field that holds a bit operand in bit 0. -/
def bitField (on : Bit) : Half := if on then 1 else 0

/-- A field that holds a byte operand in bits 7:0. -/
def byteField (v : Byte) : Half := (0 : Byte) ++ v

/-- A field that holds a signed operand (`sext_16` gives it back). -/
def intField (v : Int) : Half := BitVec.ofInt 16 v

/-- The fields of a `WRITEFRAME` word. -/
def frameFields (cmd : Option Byte) (data : Option (List Byte)) : ReqFields where
  op := 0x02
  a  := match cmd with
    | none => 0
    | some k => (1 : Byte) ++ k
  b  := bitField data.isSome
  c  := match data with
    | none => 0
    | some ds => BitVec.ofNat 16 (ds.length / 65536)
  d  := match data with
    | none => 0
    | some ds => BitVec.ofNat 16 ds.length

/-- The fields of a request's word (R53). -/
def encodeFields : Instr → ReqFields
  | .writeByte b => ⟨0x01, byteField b, 0, 0, 0⟩
  | .writeFrameNone => frameFields none none
  | .writeFrameCmd k => frameFields (some k) none
  | .writeFrameData ds => frameFields none (some ds)
  | .writeFrameBoth k ds => frameFields (some k) (some ds)
  | .hardReset => ⟨0x10, 0, 0, 0, 0⟩
  | .softReset => ⟨0x11, 0, 0, 0, 0⟩
  | .sleep on => ⟨0x12, bitField on, 0, 0, 0⟩
  | .invert on => ⟨0x13, bitField on, 0, 0, 0⟩
  | .colorMode m => ⟨0x14, byteField m, 0, 0, 0⟩
  | .orient r => ⟨0x15, intField r, 0, 0, 0⟩
  | .normalOn => ⟨0x16, 0, 0, 0, 0⟩
  | .displayOn => ⟨0x17, 0, 0, 0, 0⟩
  | .backlight on => ⟨0x18, bitField on, 0, 0, 0⟩
  | .init r => ⟨0x19, intField r, 0, 0, 0⟩
  | .caset xs xe => ⟨0x20, xs, xe, 0, 0⟩
  | .raset ys ye => ⟨0x21, ys, ye, 0, 0⟩
  | .ramWr => ⟨0x22, 0, 0, 0, 0⟩
  | .setWindow x0 y0 x1 y1 => ⟨0x23, intField x0, intField y0, intField x1, intField y1⟩
  | .vscrDef tfa vsa bfa => ⟨0x30, tfa, vsa, bfa, 0⟩
  | .vscSad off => ⟨0x31, off, 0, 0, 0⟩

/-- The payload bytes that follow a request's word (R52). -/
def encodePayload : Instr → List Byte
  | .writeByte _ => []
  | .writeFrameNone => []
  | .writeFrameCmd _ => []
  | .writeFrameData ds => ds
  | .writeFrameBoth _ ds => ds
  | .hardReset => []
  | .softReset => []
  | .sleep _ => []
  | .invert _ => []
  | .colorMode _ => []
  | .orient _ => []
  | .normalOn => []
  | .displayOn => []
  | .backlight _ => []
  | .init _ => []
  | .caset _ _ => []
  | .raset _ _ => []
  | .ramWr => []
  | .setWindow _ _ _ _ => []
  | .vscrDef _ _ _ => []
  | .vscSad _ => []

/-- A request as the host sends it: its word and the payload bytes after it (R51, R52). -/
def encode (i : Instr) : ReqWord × List Byte :=
  ((encodeFields i).pack, encodePayload i)

/-! ### The opcode table (R54) -/

/-- A row of spec/opcode_table.json: a word `w` selects it when `w & mask = pattern`. -/
structure TableRow where
  mnemonic : String
  pattern  : ReqWord
  mask     : ReqWord
  deriving DecidableEq, Repr

def TableRow.selects (r : TableRow) (w : ReqWord) : Bool := w &&& r.mask == r.pattern

/-- spec/opcode_table.json, its 21 rows in its order (R54). -/
def opcodeTable : List TableRow :=
  [ ⟨"WRITEBYTE",  0x010000000000000000, 0xFFFF00FFFFFFFFFFFF⟩,
    ⟨"WRITEFRAME", 0x020000000000000000, 0xFFFFFFFFFFFFFFFFFF⟩,
    ⟨"WRITEFRAME", 0x020100000000000000, 0xFFFF00FFFFFFFFFFFF⟩,
    ⟨"WRITEFRAME", 0x020000000100000000, 0xFFFFFFFFFF00000000⟩,
    ⟨"WRITEFRAME", 0x020100000100000000, 0xFFFF00FFFF00000000⟩,
    ⟨"HARDRESET",  0x100000000000000000, 0xFFFFFFFFFFFFFFFFFF⟩,
    ⟨"SOFTRESET",  0x110000000000000000, 0xFFFFFFFFFFFFFFFFFF⟩,
    ⟨"SLEEP",      0x120000000000000000, 0xFFFFFEFFFFFFFFFFFF⟩,
    ⟨"INVERT",     0x130000000000000000, 0xFFFFFEFFFFFFFFFFFF⟩,
    ⟨"COLORMODE",  0x140000000000000000, 0xFFFF00FFFFFFFFFFFF⟩,
    ⟨"ORIENT",     0x150000000000000000, 0xFF0000FFFFFFFFFFFF⟩,
    ⟨"NORMALON",   0x160000000000000000, 0xFFFFFFFFFFFFFFFFFF⟩,
    ⟨"DISPLAYON",  0x170000000000000000, 0xFFFFFFFFFFFFFFFFFF⟩,
    ⟨"BACKLIGHT",  0x180000000000000000, 0xFFFFFEFFFFFFFFFFFF⟩,
    ⟨"INIT",       0x190000000000000000, 0xFF0000FFFFFFFFFFFF⟩,
    ⟨"CASET",      0x200000000000000000, 0xFF00000000FFFFFFFF⟩,
    ⟨"RASET",      0x210000000000000000, 0xFF00000000FFFFFFFF⟩,
    ⟨"RAMWR",      0x220000000000000000, 0xFFFFFFFFFFFFFFFFFF⟩,
    ⟨"SETWINDOW",  0x230000000000000000, 0xFF0000000000000000⟩,
    ⟨"VSCRDEF",    0x300000000000000000, 0xFF000000000000FFFF⟩,
    ⟨"VSCSAD",     0x310000000000000000, 0xFF0000FFFFFFFFFFFF⟩ ]

/-! ### A table word as a whole request -/

/-- How many payload bytes follow this word (R58): `n` for `WRITEFRAME` with `dp` = 1, else none. -/
def payloadLength (w : ReqWord) : Nat :=
  let f := ReqFields.unpack w
  if f.op == 0x02 && f.b.getLsbD 0 then f.count else 0

/-- The request word whose bits, numbered as the table numbers them, are `w`. -/
def tableWord (nbits w : Nat) : ReqWord := BitVec.ofNat 72 (w % 2 ^ nbits)

/-- The payload that goes with a table word when every bit above the word is 0. -/
def tablePayload (nbits w : Nat) : List Byte := List.replicate (payloadLength (tableWord nbits w)) 0

/-- The request the decoder reads from a table word followed by a payload of zeros. -/
def decodeTableWord (nbits w : Nat) : Option Instr :=
  match decode (tableWord nbits w) (tablePayload nbits w) with
  | .ok (i, _) => some i
  | .error _ => none

end Sys2Proof
end

