-- ==== Sys2Proof/Machine/Fetch.lean ====
section
/-!
DEFINITION. Taking the host's next request: the block accepts a request only when idle and takes it
whole, its word and exactly the payload bytes the word counts (spec/10_state.md R11, R26,
spec/30_encoding.md R52, R55; notes/assumptions/2.md).
-/

namespace Sys2Proof.Machine

/-- What the host's side holds for an idle block. -/
inductive Fetched where
  /-- No request is pending. -/
  | idle
  /-- The next request word is refused (R55). -/
  | rejected (r : Refusal)
  /-- The next request, and the state with its word and payload taken. -/
  | request (i : Instr) (s : State)
  deriving DecidableEq, Repr

/-- The decoder's verdict as a refusal. -/
def refusalOf : Reject → Refusal
  | .reservedOp => .reservedOp
  | .reservedBits => .reservedBits
  | .payloadMissing => .payloadMissing

/-- The state with the request words and the payload bytes still to come. -/
def State.awaiting (s : State) (words : List ReqWord) (stream : List Byte) : State :=
  { s with requests := words, payload := stream }

/-- Take the next request. -/
def fetch (s : State) : Fetched :=
  match s.requests with
  | [] => .idle
  | w :: words =>
    match decode w s.payload with
    | .ok (i, rest) => .request i (s.awaiting words rest)
    | .error e => .rejected (refusalOf e)

/-- The host issues one more request, to be taken before those pending: a table word and a payload
of zeros as long as the word counts. -/
def State.issueTableWord (s : State) (nbits w : Nat) : State :=
  s.awaiting (tableWord nbits w :: s.requests) (tablePayload nbits w ++ s.payload)

end Sys2Proof.Machine
end

