-- ==== Sys2Proof/Machine/Step.lean ====
section
/-!
DEFINITION. One step: one whole request (spec/10_state.md R11). With no request pending the block
stays idle and nothing changes (notes/assumptions/3.md).
-/

namespace Sys2Proof.Machine

def step (s : State) : Host.Outcome State Fault Refusal :=
  match fetch s with
  | .idle => .next s
  | .rejected r => .refused r
  | .request i s' => exec i s'

/-- The state with this table word as the request that the next step takes. -/
def State.withFetchWord (s : State) (nbits w : Nat) : State :=
  s.issueTableWord nbits w

end Sys2Proof.Machine
end

