-- ==== Sys2Proof/Machine/Catalogue.lean ====
section
/-!
DEFINITION. The catalogue of R7 in one place: the actions of every request under a configuration, on
a surface of a given size. `Laws.exec_runs_actions` proves that `exec` performs exactly these.
-/

namespace Sys2Proof.Machine

/-- The actions of a request; only `SETWINDOW` looks at the sizes (R61, R133). -/
def actionsOf (c : Config) (width height : Nat) : Instr → List Act
  | .writeByte b => [.byte b]
  | .writeFrameNone => frame none none
  | .writeFrameCmd k => frame (some k) none
  | .writeFrameData ds => frame none (some ds)
  | .writeFrameBoth k ds => frame (some k) (some ds)
  | .hardReset => hardResetActions
  | .softReset => softResetActions c
  | .sleep on => sleepActions c on
  | .invert on => invertActions c on
  | .colorMode m => colorModeActions c m
  | .orient r => orientActions c r
  | .normalOn => normalOnActions c
  | .displayOn => displayOnActions c
  | .backlight on => backlightActions on
  | .init r => initActions c r
  | .caset xs xe => casetActions c xs xe
  | .raset ys ye => rasetActions c ys ye
  | .ramWr => ramWrActions c
  | .setWindow x0 y0 x1 y1 => setWindowActions c width height x0 y0 x1 y1
  | .vscrDef tfa vsa bfa => vscrDefActions c tfa vsa bfa
  | .vscSad off => vscSadActions c off

/-- A run under a configuration: a list of requests performed one after another (R202). -/
def runRequests (c : Config) (is : List Instr) (s : State) : State :=
  is.foldl (fun t i => run c (actionsOf c t.width t.height i) t) s

end Sys2Proof.Machine
end

