-- ==== Sys2Proof/Machine/HostLayer.lean ====
section
/-!
DEFINITION. The two host-layer users of the window and the colour packing (spec/43_window.md R139 to
R141): no operations of the block, but lists of requests the host issues.
-/

namespace Sys2Proof.Machine

/-- `color565(r, g, b)` (R139): each channel masked to its field, then shifted (90_conflicts.md C6). -/
def color565 (r g b : Byte) : Half :=
  ((r &&& 0xF8).zeroExtend 16 <<< 8) ||| ((g &&& 0xFC).zeroExtend 16 <<< 3) |||
    (b >>> 3).zeroExtend 16

/-- `n` pixels of one colour as payload bytes, most significant byte first (R36 item 4, R57). -/
def pixelBytes (n : Nat) (color : Half) : List Byte :=
  (List.replicate n (be16 color)).flatten

/-- `PIXEL x, y, c`: the data frame is issued whether or not the window was valid (R140). -/
def pixelRequests (x y : Int) (color : Half) : List Instr :=
  [.setWindow x y x y, .writeFrameData (be16 color)]

/-- The bursts of `FILLRECT` for `n` pixels: full bursts, then a final partial one if any pixel is
left (R141). -/
def burstRequests (n : Nat) (color : Half) : List Instr :=
  List.replicate (n / Config.burstPixels) (.writeFrameData (pixelBytes Config.burstPixels color))
    ++ if n % Config.burstPixels = 0 then []
       else [.writeFrameData (pixelBytes (n % Config.burstPixels) color)]

/-- `FILLRECT x, y, w, h, c`, `w` and `h` at least 1 (R141). -/
def fillRectRequests (x y : Int) (w h : Nat) (color : Half) : List Instr :=
  .setWindow x y (x + w - 1) (y + h - 1) :: burstRequests (w * h) color

end Sys2Proof.Machine
end

