-- ==== Sys2Proof/Machine/Receiver.lean ====
section
/-!
DEFINITION. The controller's view (spec/10_state.md R24), built with the receiver contract of
spec/43_window.md R138: a reference observer over `S.latched`, and over the reset line for what
spec/70_reset_and_hazards.md R195 says of `HARDRESET`. It is an assumption about the external
controller and no part of the machine: nothing in `exec` or `step` uses it. Where the spec says
nothing (93 U2 to U5, U9), the observer forgets what it knew ("any value"): it never makes a value
up (notes/assumptions/25.md, 32.md to 35.md).
-/

namespace Sys2Proof.Machine

/-- The parameter records the observer reads, by the state of R24 they set. -/
inductive Record where
  /-- The column address of the window (R130, R138). -/
  | column
  /-- The row address of the window (R131, R138). -/
  | row
  /-- The addressing-mode byte (R106). -/
  | addressing
  /-- The colour-mode byte (R105). -/
  | colorMode
  /-- The three scroll areas (R150). -/
  | scrollArea
  /-- The scroll start row (R151). -/
  | scrollStart
  deriving DecidableEq, Repr

/-- What the bytes the controller receives next mean to it. -/
inductive Phase where
  /-- No command is pending, or one that takes no parameters: a data byte here is not in the contract
  (U5, R193). -/
  | quiet
  /-- Parameters of a record, those received so far. -/
  | params (what : Record) (got : List Byte)
  /-- Memory-write mode (`writing` = 1): the pixel position and the first byte of a pixel. -/
  | writing (cx cy : Half) (half : Option Byte)
  /-- Outside the contract: nothing a data byte does here is known (U2 to U5, U9). -/
  | lost
  deriving DecidableEq, Repr

/-- What the observer knows of the state R24 gives the controller; `none` is "any value". Whether it
is in reset is not among it: "A model ... must not conclude anything about the controller being in or
out of reset" (R101). -/
structure Receiver where
  /-- The column addresses `xs, xe` of the window. -/
  col         : Option (Half × Half)
  /-- The row addresses `ys, ye` of the window. -/
  row         : Option (Half × Half)
  /-- The addressing-mode byte: the controller's orientation. -/
  addressing  : Option Byte
  /-- The colour-mode byte. -/
  colorMode   : Option Byte
  asleep      : Option Bit
  inverted    : Option Bit
  displaying  : Option Bit
  /-- Top fixed, scroll and bottom fixed area. -/
  scrollArea  : Option (Half × Half × Half)
  /-- The scroll start row. -/
  scrollStart : Option Half
  /-- Memory-write mode, or the record being received. -/
  phase       : Phase
  /-- The known writes to the frame memory, newest first; of a pixel not listed nothing is known. -/
  pixels      : List ((Half × Half) × Half)
  deriving DecidableEq, Repr

/-- Nothing is known but what the next bytes mean. -/
def Receiver.unknown (p : Phase) : Receiver where
  col         := none
  row         := none
  addressing  := none
  colorMode   := none
  asleep      := none
  inverted    := none
  displaying  := none
  scrollArea  := none
  scrollStart := none
  phase       := p
  pixels      := []

/-- Nothing is known before the first command. -/
def Receiver.start : Receiver := .unknown .quiet

/-- The known colour of a pixel: `frame_memory[x, y]`. -/
def Receiver.pixel (r : Receiver) (x y : Half) : Option Half :=
  r.pixels.lookup (x, y)

/-- "Any value for the frame memory from then on, until the next `RAMWR`" (U3, U4): the pixels are
forgotten, the window and the modes are not. DESIGN CHOICE (notes/assumptions/25.md): the same for a
memory-write command when the window is not known or its corners are out of order, on which R138 is
silent. -/
def Receiver.loseFrame (r : Receiver) : Receiver := { r with phase := .lost, pixels := [] }

/-- "Any value" for the controller: a data byte with `writing` = 0 and no pending command (U5), a byte
strobed with chip select high (U9), or an inconsistent scroll request (U2). DESIGN CHOICE
(notes/assumptions/25.md): everything is forgotten, the window and the modes with the pixels, and so it
is after two things no rule speaks of: a data byte after a command that takes no parameters (R193), and
a command that is none of the fourteen. -/
def Receiver.loseAll : Receiver := .unknown .lost

/-- The controller has been reset, by its line or by `CMD_SWRESET` (R195, R24): it has forgotten its
orientation, colour mode, window, scroll definition and sleep state, and its defaults are not in the
spec. DESIGN CHOICE (notes/assumptions/33.md): the frame memory and memory-write mode, which R195 does
not name, are forgotten too, and no command is pending. -/
def Receiver.afterReset : Receiver := .unknown .quiet

/-- `CMD_RAMWR`: a memory write starts at the window's first corner (R138), when a window with its
corners in order is known. -/
def Receiver.startWriting (r : Receiver) : Receiver :=
  match r.col, r.row with
  | some (xs, xe), some (ys, ye) =>
    if xs ≤ xe ∧ ys ≤ ye then { r with phase := .writing xs ys none } else r.loseFrame
  | _, _ => r.loseFrame

/-- `CMD_SLPIN` (R103). "What the controller keeps while asleep ... [is] not in the source" (R173).
DESIGN CHOICE (notes/assumptions/34.md): nothing but that it sleeps is known. -/
def Receiver.fallAsleep : Receiver := { Receiver.unknown .quiet with asleep := some true }

/-- `CMD_SLPOUT` (R103). DESIGN CHOICE (notes/assumptions/34.md): unless the controller was known to be
awake, nothing it was told or sent before is known to have been kept. -/
def Receiver.wake (r : Receiver) : Receiver :=
  if r.asleep = some false then { r with phase := .quiet }
  else { Receiver.unknown .quiet with asleep := some false }

/-- The byte `k` strobed with DC low: a command (R138; the modes and records of R24 by the commands of
R102 to R106, R110, R150, R151). Any command ends memory-write mode (U5, G8).
DESIGN CHOICE (notes/assumptions/32.md): R138 gives a record its meaning for its full count of bytes
and is silent on one that another command cuts short; from its command until it is complete, what the
record sets is not known.
DESIGN CHOICE (notes/assumptions/33.md): `CMD_MADCTL` keeps the window (R107 (c)) and forgets the
pixels, because no rule says where they stand after a turn; where two codes are equal (R6) the first
of this list is meant.
DESIGN CHOICE (notes/assumptions/34.md): commands to a sleeping controller mean what they mean to one
that is awake. -/
def Receiver.command (c : Config) (r : Receiver) (k : Byte) : Receiver :=
  if k = c.cmdCaset then { r with col := none, phase := .params .column [] }
  else if k = c.cmdRaset then { r with row := none, phase := .params .row [] }
  else if k = c.cmdRamwr then r.startWriting
  else if k = c.cmdSwreset then .afterReset
  else if k = c.cmdMadctl then
    { r with addressing := none, pixels := [], phase := .params .addressing [] }
  else if k = c.cmdColmod then { r with colorMode := none, phase := .params .colorMode [] }
  else if k = c.cmdSlpin then .fallAsleep
  else if k = c.cmdSlpout then r.wake
  else if k = c.cmdInvon then { r with inverted := some true, phase := .quiet }
  else if k = c.cmdInvoff then { r with inverted := some false, phase := .quiet }
  else if k = c.cmdNoron then { r with phase := .quiet }
  else if k = c.cmdDispon then { r with displaying := some true, phase := .quiet }
  else if k = c.cmdVscrdef then { r with scrollArea := none, phase := .params .scrollArea [] }
  else if k = c.cmdVscsad then { r with scrollStart := none, phase := .params .scrollStart [] }
  else .loseAll

/-- The row is inside the scroll area of this definition. DESIGN CHOICE (notes/assumptions/35.md): the
scroll area is the `vsa` rows after the `tfa` fixed ones. -/
def inScrollArea (area : Half × Half × Half) (off : Half) : Bool :=
  area.1.toNat ≤ off.toNat && off.toNat < area.1.toNat + area.2.1.toNat

/-- A whole scroll definition. One whose parts do not add up to the panel height leaves "any value"
(U2). DESIGN CHOICE (notes/assumptions/35.md): so does one that puts the scroll start the controller
was told outside its area. -/
def Receiver.takeScrollArea (r : Receiver) (tfa vsa bfa : Half) : Receiver :=
  if tfa.toNat + vsa.toNat + bfa.toNat = Config.panelH
      ∧ r.scrollStart.all (inScrollArea (tfa, vsa, bfa)) = true then
    { r with scrollArea := some (tfa, vsa, bfa), phase := .quiet }
  else .loseAll

/-- A whole scroll start. One outside the scroll area leaves "any value" (U2). DESIGN CHOICE
(notes/assumptions/35.md): so does one sent when the scroll area is not known. -/
def Receiver.takeScrollStart (r : Receiver) (off : Half) : Receiver :=
  if r.scrollArea.any (inScrollArea · off) = true then
    { r with scrollStart := some off, phase := .quiet }
  else .loseAll

/-- The bytes of a record so far: a whole one sets what it names, each 16-bit field most significant
byte first (R130, R131, R105, R106, R150, R151), and no command is pending after it; any other is
still being received. -/
def Receiver.takeRecord (r : Receiver) (what : Record) (bytes : List Byte) : Receiver :=
  match what, bytes with
  | .column, [h0, l0, h1, l1] => { r with col := some (h0 ++ l0, h1 ++ l1), phase := .quiet }
  | .row, [h0, l0, h1, l1] => { r with row := some (h0 ++ l0, h1 ++ l1), phase := .quiet }
  | .addressing, [v] => { r with addressing := some v, phase := .quiet }
  | .colorMode, [v] => { r with colorMode := some v, phase := .quiet }
  | .scrollArea, [h0, l0, h1, l1, h2, l2] => r.takeScrollArea (h0 ++ l0) (h1 ++ l1) (h2 ++ l2)
  | .scrollStart, [h, l] => r.takeScrollStart (h ++ l)
  | _, _ => { r with phase := .params what bytes }

/-- A whole pixel at the current position: stored, and the position moves row by row, wrapping at
`xe` back to `xs`. Past the last row (U3) or off a surface of this size (U4) the contract is silent. DESIGN CHOICE (notes/assumptions/25.md): a pixel
is two bytes in every colour mode and is stored also while the controller sleeps, the literal reading of
R138, which asks neither. -/
def Receiver.store (width height : Nat) (r : Receiver) (cx cy : Half) (color : Half) : Receiver :=
  match r.col, r.row with
  | some (xs, xe), some (_, ye) =>
    if cy ≤ ye ∧ cx.toNat < width ∧ cy.toNat < height then
      { r with
        pixels := ((cx, cy), color) :: r.pixels
        phase := if cx = xe then .writing xs (cy + 1) none else .writing (cx + 1) cy none }
    else r.loseFrame
  | _, _ => r.loseFrame

/-- The byte `v` strobed with DC high: a parameter, half a pixel, or outside the contract (U5,
R193). -/
def Receiver.data (width height : Nat) (r : Receiver) (v : Byte) : Receiver :=
  match r.phase with
  | .quiet => .loseAll
  | .params what got => r.takeRecord what (got ++ [v])
  | .writing cx cy none => { r with phase := .writing cx cy (some v) }
  | .writing cx cy (some h) => r.store width height cx cy (h ++ v)
  | .lost => r

/-- One strobe, on a surface of this size. With chip select high nothing is known afterwards (U9). -/
def Receiver.observe (c : Config) (width height : Nat) (r : Receiver) (l : Latch) : Receiver :=
  if l.cs then .loseAll
  else if l.dc then r.data width height l.byte
  else r.command c l.byte

/-- What the observer knows after these strobes (R138: an observer over `S.latched`). -/
def Receiver.watch (c : Config) (width height : Nat) (r : Receiver) (ls : List Latch) : Receiver :=
  ls.foldl (Receiver.observe c width height) r

/-! ### The reset line as well (R195) -/

/-- What reaches the controller. -/
inductive Signal where
  /-- A byte is offered at a strobe (R20). -/
  | offered (l : Latch)
  /-- The reset line is driven. -/
  | resetLine
  deriving DecidableEq, Repr

/-- The signals of these events, the samples at their strobes taken from the latched list in turn:
one entry a strobe (R20). -/
def signals : List Event → List Latch → List Signal
  | [], _ => []
  | .strobe :: es, l :: ls => .offered l :: signals es ls
  | .strobe :: es, [] => signals es []
  | .line .rst _ :: es, ls => .resetLine :: signals es ls
  | .line .cs _ :: es, ls => signals es ls
  | .line .dc _ :: es, ls => signals es ls
  | .line .bl _ :: es, ls => signals es ls
  | .write _ _ :: es, ls => signals es ls
  | .delay _ :: es, ls => signals es ls

/-- One signal. DESIGN CHOICE (notes/assumptions/33.md): the level that asserts reset is not in the
spec (R101), so any drive of the line leaves a controller that has been reset. -/
def Receiver.hear (c : Config) (width height : Nat) (r : Receiver) : Signal → Receiver
  | .offered l => r.observe c width height l
  | .resetLine => .afterReset

/-- What the observer knows after these signals. -/
def Receiver.follow (c : Config) (width height : Nat) (r : Receiver) (sigs : List Signal) :
    Receiver :=
  sigs.foldl (Receiver.hear c width height) r

/-- What the observer knows after the events and samples that `t` has beyond those of `s`. -/
def Receiver.between (c : Config) (width height : Nat) (r : Receiver) (s t : State) : Receiver :=
  r.follow c width height
    (signals (t.trace.drop s.trace.length) (t.latched.drop s.latched.length))

end Sys2Proof.Machine
end

