-- ==== Sys2Proof/Safety.lean ====
section
/-!
DEFINITION. What claims about the block are stated in: its invariants (spec/10_state.md R16, R18,
R20, R21, spec/41_bus_writer.md R86), the wire frame of spec/30_encoding.md R56 as lists of events
and latches, the wires as a replay of the trace (R19, R20), and the machine without the
repeated-byte skip (R83).
-/

namespace Sys2Proof.Safety

open Sys2Proof.Machine

/-! ### Invariants -/

/-- `INV_LAST` (R21): the data pins hold the last byte written. -/
def InvLast (c : Config) (s : State) : Prop :=
  ∀ b, s.last = some b → s.bus c = b

/-- The sizes are the function of the orientation that R16 gives. -/
def SizesFollowOrientation (s : State) : Prop :=
  s.width = surfaceWidth s.orientation ∧ s.height = surfaceHeight s.orientation

/-- Chip select is high between frames (R18). -/
def ChipSelectIdle (s : State) : Prop := s.cs = true

/-- The levels driven on a line, in order. -/
def lineLevels (l : Line) : List Event → List Bit
  | [] => []
  | .line l' v :: es => if l' = l then v :: lineLevels l es else lineLevels l es
  | .write _ _ :: es => lineLevels l es
  | .strobe :: es => lineLevels l es
  | .delay _ :: es => lineLevels l es

/-- Low, high, low, high, ..., ending high (R86). -/
def lowHighPairs : List Bit → Bool
  | [] => true
  | false :: true :: vs => lowHighPairs vs
  | _ => false

/-- Every chip-select low is followed by its high before the next low (R86). -/
def ChipSelectBrackets (s : State) : Prop := lowHighPairs (lineLevels .cs s.trace) = true

/-- How many strobes there are among the events. -/
def strobeCount (es : List Event) : Nat := es.countP (· == .strobe)

/-- One entry of `S.latched` per `STROBE` event (R20). -/
def OneLatchPerStrobe (s : State) : Prop := s.latched.length = strobeCount s.trace

/-- The invariant of the block, between requests. -/
structure BlockInv (c : Config) (s : State) : Prop where
  busHoldsLast : InvLast c s
  sizes : SizesFollowOrientation s
  idle : ChipSelectIdle s
  brackets : ChipSelectBrackets s
  latches : OneLatchPerStrobe s

/-! ### The wire frame (R56) -/

/-- The events of `byte(v)` after the last byte `last`: a strobe alone for a repeated byte, else the
four register writes and a strobe (R56, R80, R81). -/
def byteEvents (c : Config) (last : Option Byte) (v : Byte) : List Event :=
  if last = some v then [.strobe]
  else
    [ .write .setLo (maskFor c v).setLo, .write .setHi (maskFor c v).setHi,
      .write .clrLo (maskFor c v).clrLo, .write .clrHi (maskFor c v).clrHi, .strobe ]

/-- The events of bytes in order, each after the one before it (R88). -/
def bytesEvents (c : Config) (last : Option Byte) : List Byte → List Event
  | [] => []
  | v :: vs => byteEvents c last v ++ bytesEvents c (some v) vs

/-- `S.last` after these bytes (R14, R88). -/
def lastAfter (last : Option Byte) : List Byte → Option Byte
  | [] => last
  | v :: vs => lastAfter (some v) vs

/-- The bytes of a frame, the command first (R36). -/
def frameBytes (cmd : Option Byte) (data : Option (List Byte)) : List Byte :=
  cmd.toList ++ data.getD []

/-- The events of a frame (R56). -/
def frameEvents (c : Config) (last : Option Byte) (cmd : Option Byte)
    (data : Option (List Byte)) : List Event :=
  [.line .cs false]
    ++ (match cmd with
        | none => []
        | some k => .line .dc false :: byteEvents c last k)
    ++ (match data with
        | none => []
        | some ds => .line .dc true :: bytesEvents c (lastAfter last cmd.toList) ds)
    ++ [.line .cs true]

/-- What a frame offers the controller (R87). -/
def frameLatches (cmd : Option Byte) (data : Option (List Byte)) : List Latch :=
  cmd.toList.map (Latch.mk false false) ++ (data.getD []).map (Latch.mk false true)

/-- The level DC is left at: that of the last part present (R18, R85, R87). -/
def frameDc (dc : Bit) (cmd : Option Byte) (data : Option (List Byte)) : Bit :=
  if data.isSome then true else if cmd.isSome then false else dc

/-- A bank's latches when the byte `last` is on the pins: the bits outside the data pins as before,
the data pins as the set word says (R73); nothing changes when no byte is known. -/
def latchesWith (full : Word) (set : Byte → Word) (out : Word) : Option Byte → Word
  | none => out
  | some v => (out &&& ~~~full) ||| set v

/-- The whole state after a frame, from a state whose pins hold the last byte: everything R84, R56
and R87 say it changes, and nothing else. -/
def afterFrame (c : Config) (cmd : Option Byte) (data : Option (List Byte)) (s : State) : State :=
  { s with
    last := lastAfter s.last (frameBytes cmd data)
    outLo := latchesWith (fullLo c) (setLo c) s.outLo (lastAfter none (frameBytes cmd data))
    outHi := latchesWith (fullHi c) (setHi c) s.outHi (lastAfter none (frameBytes cmd data))
    cs := true
    dc := frameDc s.dc cmd data
    trace := s.trace ++ frameEvents c s.last cmd data
    latched := s.latched ++ frameLatches cmd data }

/-! ### The wires as a replay of the trace (R19, R20) -/

/-- What an observer of the events knows: the latches, the four lines, the samples at the strobes. -/
structure Wires where
  outLo   : Word
  outHi   : Word
  cs      : Bit
  dc      : Bit
  rst     : Bit
  bl      : Bit
  latched : List Latch
  deriving DecidableEq, Repr

def wiresOf (s : State) : Wires := ⟨s.outLo, s.outHi, s.cs, s.dc, s.rst, s.bl, s.latched⟩

/-- The byte on the data pins of these latches (R21). -/
def Wires.bus (c : Config) (u : Wires) : Byte :=
  BitVec.ofFnLE fun i =>
    if (c.pin i).val < 32 then u.outLo.getLsbD (c.pin i).val
    else u.outHi.getLsbD ((c.pin i).val - 32)

/-- What one event does to the wires (R31, R32, R20); a delay changes none (R200). -/
def Wires.see (c : Config) (u : Wires) : Event → Wires
  | .write .setLo w => { u with outLo := u.outLo ||| w }
  | .write .setHi w => { u with outHi := u.outHi ||| w }
  | .write .clrLo w => { u with outLo := u.outLo &&& ~~~w }
  | .write .clrHi w => { u with outHi := u.outHi &&& ~~~w }
  | .strobe => { u with latched := u.latched ++ [⟨u.cs, u.dc, u.bus c⟩] }
  | .line .cs v => { u with cs := v }
  | .line .dc v => { u with dc := v }
  | .line .rst v => { u with rst := v }
  | .line .bl v => { u with bl := v }
  | .delay _ => u

/-- The wires after these events. -/
def Wires.replay (c : Config) (u : Wires) (es : List Event) : Wires :=
  es.foldl (Wires.see c) u

/-! ### Runs of requests -/

/-- Requests performed one after another by `exec` (R202). -/
def execAll : List Instr → State → Host.Outcome State Fault Refusal
  | [], s => .next s
  | i :: is, s =>
    match exec i s with
    | .next t => execAll is t
    | .fault r => .fault r
    | .refused r => .refused r

/-- `WRITEBYTE` without the then branch of R80: every byte is written (R83). -/
def writeAlways (c : Config) (s : State) (b : Byte) : State :=
  ((s.writeWords (maskFor c b)).strobe c).recordLast b

/-- An action when every byte is written (R83). -/
def performAlways (c : Config) (s : State) : Act → State
  | .byte b => writeAlways c s b
  | .line l v => s.drive l v
  | .delay t => s.emit (.delay t)
  | .turn q => s.setOrientation q

/-- A run of the machine in which "every byte takes the else branch" (R83). -/
def runAlways (c : Config) (is : List Instr) (s : State) : State :=
  is.foldl (fun t i => (actionsOf c t.width t.height i).foldl (performAlways c) t) s

/-- The events that are no register writes. -/
def otherEvents (es : List Event) : List Event :=
  es.filter fun e => match e with
    | .write _ _ => false
    | _ => true

/-- How many `DELAY` events there are among the events. -/
def delayCount (es : List Event) : Nat :=
  es.countP fun e => match e with
    | .delay _ => true
    | _ => false

/-! ### Requests by kind -/

/-- The `WRITEFRAME` request with these parts (R53, R84). -/
def frameRequest : Option Byte → Option (List Byte) → Instr
  | none, none => .writeFrameNone
  | some k, none => .writeFrameCmd k
  | none, some ds => .writeFrameData ds
  | some k, some ds => .writeFrameBoth k ds

/-- The request's mnemonic in the opcode table (R53). -/
def mnemonicOf : Instr → String
  | .writeByte _ => "WRITEBYTE"
  | .writeFrameNone => "WRITEFRAME"
  | .writeFrameCmd _ => "WRITEFRAME"
  | .writeFrameData _ => "WRITEFRAME"
  | .writeFrameBoth _ _ => "WRITEFRAME"
  | .hardReset => "HARDRESET"
  | .softReset => "SOFTRESET"
  | .sleep _ => "SLEEP"
  | .invert _ => "INVERT"
  | .colorMode _ => "COLORMODE"
  | .orient _ => "ORIENT"
  | .normalOn => "NORMALON"
  | .displayOn => "DISPLAYON"
  | .backlight _ => "BACKLIGHT"
  | .init _ => "INIT"
  | .caset _ _ => "CASET"
  | .raset _ _ => "RASET"
  | .ramWr => "RAMWR"
  | .setWindow _ _ _ _ => "SETWINDOW"
  | .vscrDef _ _ _ => "VSCRDEF"
  | .vscSad _ => "VSCSAD"

/-- The 18 values of `op` (R53, R54), in the table's order. -/
def knownOps : List Byte :=
  [0x01, 0x02, 0x10, 0x11, 0x12, 0x13, 0x14, 0x15, 0x16, 0x17, 0x18, 0x19, 0x20, 0x21, 0x22, 0x23,
    0x30, 0x31]

/-- The window test of R133, the six conditions in its words, on the current sizes. -/
abbrev WindowInside (s : State) (x0 y0 x1 y1 : Int) : Prop :=
  0 ≤ x0 ∧ x0 ≤ x1 ∧ x1 ≤ s.width ∧ 0 ≤ y0 ∧ y0 ≤ y1 ∧ y1 ≤ s.height

/-- The payload of a column or row frame, the four bytes of R130: start then end. -/
def spanBytes (first last : Half) : List Byte :=
  [first.extractLsb' 8 8, first.extractLsb' 0 8, last.extractLsb' 8 8, last.extractLsb' 0 8]

/-- What the three frames of a window offer the controller (R134). -/
def windowLatches (c : Config) (xs ys xe ye : Half) : List Latch :=
  frameLatches (some c.cmdCaset) (some (spanBytes xs xe))
    ++ frameLatches (some c.cmdRaset) (some (spanBytes ys ye))
    ++ frameLatches (some c.cmdRamwr) none

/-- The number of 1 bits of a word (R73). -/
def popcount (w : Word) : Nat := (List.range 32).countP fun k => w.getLsbD k

/-- The three commands the receiver contract names have codes of their own (R138; the codes "need not
differ", R6, and the contract can tell them apart only when they do). -/
abbrev WindowCodesDiffer (c : Config) : Prop :=
  c.cmdCaset ≠ c.cmdRaset ∧ c.cmdCaset ≠ c.cmdRamwr ∧ c.cmdRaset ≠ c.cmdRamwr

/-- The fourteen command codes of R4. -/
def commandCodes (c : Config) : List Byte :=
  [ c.cmdSwreset, c.cmdSlpin, c.cmdSlpout, c.cmdNoron, c.cmdInvoff, c.cmdInvon, c.cmdDispon,
    c.cmdCaset, c.cmdRaset, c.cmdRamwr, c.cmdVscrdef, c.cmdMadctl, c.cmdVscsad, c.cmdColmod ]

/-- Every command has a code of its own, so that a controller can tell them apart (R6: they "need not
differ"). -/
abbrev CommandCodesDiffer (c : Config) : Prop := (commandCodes c).Nodup

end Sys2Proof.Safety
end

