-- ==== Sys2Proof/Certificates/Slice0/Obligations.lean ====
section
/-!
DEFINITION. The statements for the provers, in the order of the spec's files: requests and their
words, reset, the invariants, the mask table, the bus writer, the protocol, the window, the scroll
controller, the whole machine, the host layer and the receiver contract. `INV_LAST` (`InvLast`) is
the premise wherever the state could hold pins that differ from the last byte recorded, which no run
reaches (`StepKeepsBlockInvariant`).
-/

open Sys2Proof Sys2Proof.Machine Sys2Proof.Safety

/-! ### Requests and their words -/

/-- The next request, when its word and payload decode, is what a step performs, with the word and
exactly the payload it counts taken from the host's side (R11, R52). -/
def Obligations.StepRunsTheDecodedRequest : Prop :=
  ∀ (s : State) (w : ReqWord) (words : List ReqWord) (i : Instr) (rest : List Byte),
    s.requests = w :: words → decode w s.payload = .ok (i, rest) →
    step s = exec i { s with requests := words, payload := rest }

/-- With no request pending the block stays as it is: the model's choice, log 3. -/
def Obligations.IdleStepChangesNothing : Prop :=
  ∀ s : State, s.requests = [] → step s = .next s

/-- A word that selects no row of the opcode table is refused, by name: for its `op`, or for a 1 in a
must-be-zero bit (R55). -/
def Obligations.ReservedWordIsRefused : Prop :=
  ∀ (s : State) (w : ReqWord) (words : List ReqWord), s.requests = w :: words →
    (∀ row ∈ opcodeTable, row.selects w = false) →
    step s = .refused (if w.extractLsb' 64 8 ∈ knownOps then .reservedBits else .reservedOp)

/-- A selected word whose payload is not all there is refused: the model's choice, log 5. -/
def Obligations.ShortPayloadIsRefused : Prop :=
  ∀ (s : State) (w : ReqWord) (words : List ReqWord), s.requests = w :: words →
    (∃ row ∈ opcodeTable, row.selects w = true) → s.payload.length < payloadLength w →
    step s = .refused .payloadMissing

/-- "No word selects two rows" of the opcode table (R54). -/
def Obligations.NoWordSelectsTwoRows : Prop :=
  opcodeTable.Pairwise fun r r' => ∀ w : ReqWord, r.selects w = true → r'.selects w = false

/-- The decoder reads the opcode table (R54): what it accepts selects a row with the request's
mnemonic, and a word that selects a row, with its payload, is accepted as a request of that
mnemonic. -/
def Obligations.DecoderReadsTheOpcodeTable : Prop :=
  (∀ (w : ReqWord) (stream : List Byte) (i : Instr) (rest : List Byte),
    decode w stream = .ok (i, rest) →
    ∃ row ∈ opcodeTable, row.selects w = true ∧ row.mnemonic = mnemonicOf i) ∧
  (∀ (w : ReqWord) (stream : List Byte), ∀ row ∈ opcodeTable, row.selects w = true →
    payloadLength w ≤ stream.length →
    ∃ i rest, decode w stream = .ok (i, rest) ∧ mnemonicOf i = row.mnemonic)

/-- Decoding an encoded request gives it back, every operand at every value a word can hold, and
leaves the rest of the payload stream (R51 to R53). -/
def Obligations.DecodeOfEncodeIsTheRequest : Prop :=
  ∀ (i : Instr) (rest : List Byte), i.wellFormed = true →
    decode (encode i).1 ((encode i).2 ++ rest) = .ok (i, rest)

/-- What decodes is well formed and is the only request with that word and payload: no bit of a word
is dropped (R51 to R55). -/
def Obligations.EncodeOfDecodeIsTheWord : Prop :=
  ∀ (w : ReqWord) (stream : List Byte) (i : Instr) (rest : List Byte),
    decode w stream = .ok (i, rest) →
    i.wellFormed = true ∧ (encode i).1 = w ∧ (encode i).2 ++ rest = stream

/-- "The block consumes exactly n bytes" (R52), n read from the word alone (R58). -/
def Obligations.DecoderConsumesExactlyThePayload : Prop :=
  ∀ (w : ReqWord) (stream : List Byte) (i : Instr) (rest : List Byte),
    decode w stream = .ok (i, rest) →
    payloadLength w ≤ stream.length ∧ rest = stream.drop (payloadLength w)

/-- Words of the spec's vectors read as the requests they stand for (V9, V19, V23, V36, V39). -/
def Obligations.SpecWordsDecode : Prop :=
  decodeTableWord 72 0x230005000700050007 = some (.setWindow 5 7 5 7) ∧
  decodeTableWord 72 0x23FFFF000000050005 = some (.setWindow (-1) 0 5 5) ∧
  decode 0x02012C000100000002 [0x2C, 0x00, 0x77]
    = .ok (.writeFrameBoth 0x2C [0x2C, 0x00], [0x77]) ∧
  decodeTableWord 72 0x020111000000000000 = some (.writeFrameCmd 0x11) ∧
  decodeTableWord 72 0x15FFFF000000000000 = some (.orient (-1)) ∧
  decodeTableWord 72 0x200005010500000000 = some (.caset 5 261) ∧
  decodeTableWord 72 0x30001401B800140000 = some (.vscrDef 20 440 20) ∧
  decodeTableWord 72 0x120002000000000000 = none

/-! ### Reset -/

/-- The reset values of R23. That `last` is None follows from the source; orientation 0, the sizes, CS
high and the backlight off are the spec's decision D16; the empty host side is the model's, log 2. -/
def Obligations.ResetStateIsAsStated : Prop :=
  State.reset.last = none ∧ State.reset.orientation = 0 ∧ State.reset.width = 320
    ∧ State.reset.height = 480 ∧ State.reset.cs = true ∧ State.reset.bl = false
    ∧ State.reset.trace = [] ∧ State.reset.latched = [] ∧ State.reset.requests = []
    ∧ State.reset.payload = []

/-- The reset state meets the block's invariant. -/
def Obligations.ResetMeetsBlockInvariant : Prop :=
  BlockInv Config.chip State.reset

/-! ### Invariants of every step -/

/-- Every step keeps the block's invariant: the pins hold the last byte (R21), the sizes follow the
orientation (R16), chip select is high between requests (R18) and was bracketed always (R86), one
latch entry per strobe (R20). -/
def Obligations.StepKeepsBlockInvariant : Prop :=
  ∀ s t : State, BlockInv Config.chip s → step s = .next t → BlockInv Config.chip t

/-- A step only appends events (R19), and the latches, the four lines and the samples at the strobes
after it are what an observer of those events computes from the ones before (R20, R31, R32). -/
def Obligations.WiresAreTheReplayOfTheTrace : Prop :=
  ∀ s t : State, step s = .next t →
    ∃ es, t.trace = s.trace ++ es ∧ wiresOf t = (wiresOf s).replay Config.chip es

/-- No step changes a GPIO that is no data pin (R17). -/
def Obligations.OtherGpiosAreNeverChanged : Prop :=
  ∀ s t : State, step s = .next t →
    t.outLo &&& ~~~(fullLo Config.chip) = s.outLo &&& ~~~(fullLo Config.chip) ∧
    t.outHi &&& ~~~(fullHi Config.chip) = s.outHi &&& ~~~(fullHi Config.chip)

/-! ### The mask table -/

/-- R71, R72: at each GPIO, the set word has a 1 exactly for a data pin whose bit of the byte is 1, the
clear word exactly for a data pin whose bit is 0. -/
def Obligations.MaskWordsPerGpio : Prop :=
  ∀ (c : Config) (v : Byte) (p : Fin 64),
    ((if p.val < 32 then (maskFor c v).setLo.getLsbD p.val
        else (maskFor c v).setHi.getLsbD (p.val - 32)) = true
      ↔ ∃ i : Fin 8, c.pin i = p ∧ v.getLsbD i.val = true) ∧
    ((if p.val < 32 then (maskFor c v).clrLo.getLsbD p.val
        else (maskFor c v).clrHi.getLsbD (p.val - 32)) = true
      ↔ ∃ i : Fin 8, c.pin i = p ∧ v.getLsbD i.val = false)

/-- R73: set and clear words are disjoint, together they are FULL, FULL has eight 1 bits, and different
bytes have different set words. -/
def Obligations.MaskEntriesPartitionTheDataPins : Prop :=
  ∀ (c : Config) (v : Byte),
    (maskFor c v).setLo &&& (maskFor c v).clrLo = 0 ∧
    (maskFor c v).setHi &&& (maskFor c v).clrHi = 0 ∧
    (maskFor c v).setLo ||| (maskFor c v).clrLo = fullLo c ∧
    (maskFor c v).setHi ||| (maskFor c v).clrHi = fullHi c ∧
    (maskFor c v).setLo &&& ~~~(fullLo c) = 0 ∧
    (maskFor c v).setHi &&& ~~~(fullHi c) = 0 ∧
    popcount (fullLo c) + popcount (fullHi c) = 8 ∧
    ∀ v' : Byte, (maskFor c v).setLo = (maskFor c v').setLo →
      (maskFor c v).setHi = (maskFor c v').setHi → v = v'

/-! ### The bus writer -/

/-- R31: what a write to each GPIO register does, and that it is an event whatever the word (the
or / and-not reading is the spec's decision D13). -/
def Obligations.GpioRegisterWrites : Prop :=
  ∀ (s : State) (w : Word),
    s.memWrite .setLo w
      = { s with outLo := s.outLo ||| w, trace := s.trace ++ [.write .setLo w] } ∧
    s.memWrite .setHi w
      = { s with outHi := s.outHi ||| w, trace := s.trace ++ [.write .setHi w] } ∧
    s.memWrite .clrLo w
      = { s with outLo := s.outLo &&& ~~~w, trace := s.trace ++ [.write .clrLo w] } ∧
    s.memWrite .clrHi w
      = { s with outHi := s.outHi &&& ~~~w, trace := s.trace ++ [.write .clrHi w] }

/-- `WRITEBYTE b` in any state, the whole next state (R80, R81). A repeated byte is strobed and nothing
else; any other byte, the first after reset included, makes the four register writes in their order,
all four also when a word is 0, then strobes, and is recorded as last. What the four writes leave in
the latches is R31, the spec's decision D13 (log 11); that the strobe then offers `b` is R82, derived. -/
def Obligations.WriteByteHasTwoBranches : Prop :=
  ∀ (b : Byte) (s : State),
    encode (.writeByte b) = ((0x01 : Byte) ++ (0 : Byte) ++ b ++ (0 : BitVec 48), []) ∧
    (s.last = some b →
      exec (.writeByte b) s = .next
        { s with
          trace := s.trace ++ [.strobe]
          latched := s.latched ++ [⟨s.cs, s.dc, s.bus Config.chip⟩] }) ∧
    (s.last ≠ some b →
      exec (.writeByte b) s = .next
        { s with
          last := some b
          outLo := (s.outLo ||| (maskFor Config.chip b).setLo) &&& ~~~(maskFor Config.chip b).clrLo
          outHi := (s.outHi ||| (maskFor Config.chip b).setHi) &&& ~~~(maskFor Config.chip b).clrHi
          trace := s.trace ++
            [ .write .setLo (maskFor Config.chip b).setLo,
              .write .setHi (maskFor Config.chip b).setHi,
              .write .clrLo (maskFor Config.chip b).clrLo,
              .write .clrHi (maskFor Config.chip b).clrHi, .strobe ]
          latched := s.latched ++ [⟨s.cs, s.dc, b⟩] })

/-- R82: `WRITEBYTE b` puts `b` on the bus, records it and offers it, whichever branch it takes, and
keeps `INV_LAST`. -/
def Obligations.WriteBytePutsItsByteOnTheBus : Prop :=
  ∀ (b : Byte) (s : State), InvLast Config.chip s →
    ∃ t, exec (.writeByte b) s = .next t ∧ t.bus Config.chip = b ∧ t.last = some b
      ∧ t.latched = s.latched ++ [⟨s.cs, s.dc, b⟩] ∧ InvLast Config.chip t

/-- R84: `WRITEFRAME` with both, either or neither part: the whole next state, and the presence bits
of its word. -/
def Obligations.WriteFrameSendsItsParts : Prop :=
  ∀ (cmd : Option Byte) (data : Option (List Byte)) (s : State), InvLast Config.chip s →
    exec (frameRequest cmd data) s = .next (afterFrame Config.chip cmd data s) ∧
    (ReqFields.unpack (encode (frameRequest cmd data)).1).op = 0x02 ∧
    (ReqFields.unpack (encode (frameRequest cmd data)).1).a.getLsbD 8 = cmd.isSome ∧
    (ReqFields.unpack (encode (frameRequest cmd data)).1).b.getLsbD 0 = data.isSome ∧
    (encode (frameRequest cmd data)).2 = data.getD []

/-- The events of a frame in any state, and everything a frame leaves alone (R84, R88, R22). -/
def Obligations.FrameEventsInEveryState : Prop :=
  ∀ (cmd : Option Byte) (data : Option (List Byte)) (s : State),
    ∃ t, exec (frameRequest cmd data) s = .next t ∧
      t.trace = s.trace ++ frameEvents Config.chip s.last cmd data ∧
      t.last = lastAfter s.last (frameBytes cmd data) ∧
      t.cs = true ∧ t.dc = frameDc s.dc cmd data ∧ t.rst = s.rst ∧ t.bl = s.bl ∧
      t.orientation = s.orientation ∧ t.width = s.width ∧ t.height = s.height ∧
      t.latched.length = s.latched.length + (frameBytes cmd data).length ∧
      t.requests = s.requests ∧ t.payload = s.payload

/-- R85: a frame with neither part, and one with an empty data part, in any state (the spec's
decision D15). -/
def Obligations.FramesWithNoByte : Prop :=
  ∀ s : State,
    exec .writeFrameNone s = .next
      { s with cs := true, trace := s.trace ++ [.line .cs false, .line .cs true] } ∧
    exec (.writeFrameData []) s = .next
      { s with
        cs := true
        dc := true
        trace := s.trace ++ [.line .cs false, .line .dc true, .line .cs true] }

/-- R86: `CS(0)` is the first and `CS(1)` the last event of every `WRITEFRAME`, with no other CS event
between; over all requests the CS levels a request drives are low, high, low, high, ...; and a byte
is offered with CS low by every request but `WRITEBYTE`; what sends no frame does not drive CS. -/
def Obligations.ChipSelectBracketsEveryFrame : Prop :=
  (∀ (cmd : Option Byte) (data : Option (List Byte)) (s t : State),
    exec (frameRequest cmd data) s = .next t →
    ∃ es, t.trace = s.trace ++ (.line .cs false :: es ++ [.line .cs true]) ∧
      lineLevels .cs es = []) ∧
  (∀ (i : Instr) (s t : State), exec i s = .next t →
    ∃ es ls, t.trace = s.trace ++ es ∧ lowHighPairs (lineLevels .cs es) = true ∧
      t.latched = s.latched ++ ls ∧
      ((∀ b, i ≠ .writeByte b) → ∀ l ∈ ls, l.cs = false)) ∧
  (∀ (b : Byte) (on : Bit) (i : Instr) (s t : State), exec i s = .next t →
    i = .writeByte b ∨ i = .hardReset ∨ i = .backlight on →
    t.cs = s.cs ∧ lineLevels .cs t.trace = lineLevels .cs s.trace)

/-- R88: the first byte of a frame is compared with the last byte of the frame before it, whatever lay
between: the same command again, after a reset pulse and a backlight switch, is only strobed. -/
def Obligations.LastByteCarriesAcrossFrames : Prop :=
  ∀ (k : Byte) (on : Bit) (s t : State),
    execAll [.writeFrameCmd k, .hardReset, .backlight on] s = .next t →
    ∃ u, exec (.writeFrameCmd k) t = .next u ∧
      u.trace = t.trace ++ [.line .cs false, .line .dc false, .strobe, .line .cs true] ∧
      u.outLo = t.outLo ∧ u.outHi = t.outHi

/-- R83: from a state whose pins hold the last byte, any requests latch the same and drive the same
with the repeated-byte skip as without it; only register-write events differ. -/
def Obligations.SkippingRepeatedBytesIsInvisible : Prop :=
  ∀ (is : List Instr) (s : State), InvLast Config.chip s →
    ∃ t, execAll is s = .next t ∧
      t.latched = (runAlways Config.chip is s).latched ∧
      wiresOf t = wiresOf (runAlways Config.chip is s) ∧
      t.last = (runAlways Config.chip is s).last ∧
      otherEvents t.trace = otherEvents (runAlways Config.chip is s).trace

/-! ### The protocol -/

/-- R100, in any state: the levels and durations in the order the source gives them (the literal
reading is the spec's decision D10). -/
def Obligations.HardResetPulsesTheLine : Prop :=
  ∀ s : State,
    exec .hardReset s = .next
      { s with
        rst := false
        trace := s.trace ++
          [ .line .rst false, .delay 5, .line .rst true, .delay 20, .line .rst false, .delay 150 ] }

/-- R109: `NORMALON` is a command frame, and its word. -/
def Obligations.NormalOnSendsItsCommand : Prop :=
  (encode .normalOn = (0x160000000000000000, [])) ∧
  ∀ s : State, InvLast Config.chip s →
    exec .normalOn s = .next (afterFrame Config.chip (some Config.chip.cmdNoron) none s)

/-- R102, R103, R104, R110: `SOFTRESET`, `SLEEP`, `INVERT` and `DISPLAYON` are command frames and
nothing else; which code a bit operand selects is the spec's decision D27. -/
def Obligations.CommandRequestsSendOneByte : Prop :=
  ∀ s : State, InvLast Config.chip s →
    exec .softReset s = .next (afterFrame Config.chip (some Config.chip.cmdSwreset) none s) ∧
    exec (.sleep true) s = .next (afterFrame Config.chip (some Config.chip.cmdSlpin) none s) ∧
    exec (.sleep false) s = .next (afterFrame Config.chip (some Config.chip.cmdSlpout) none s) ∧
    exec (.invert true) s = .next (afterFrame Config.chip (some Config.chip.cmdInvon) none s) ∧
    exec (.invert false) s = .next (afterFrame Config.chip (some Config.chip.cmdInvoff) none s) ∧
    exec .displayOn s = .next (afterFrame Config.chip (some Config.chip.cmdDispon) none s)

/-- R105: `COLORMODE m` sends its byte as given, all 256 values (one payload byte: the spec's decision
D25). -/
def Obligations.ColorModeSendsItsByte : Prop :=
  ∀ (m : Byte) (s : State), InvLast Config.chip s →
    exec (.colorMode m) s = .next (afterFrame Config.chip (some Config.chip.cmdColmod) (some [m]) s)

/-- R106, R107: `ORIENT r` for every integer `r`: the index is `r` modulo 4, the sizes are set from it
and the frame carries its addressing-mode byte (the sizes and the modulo of a negative number are the
spec's decisions D8 and D9). -/
def Obligations.OrientSetsSizesAndSendsItsByte : Prop :=
  ∀ (r : Int) (q : Fin 4) (s : State), InvLast Config.chip s → (q.val : Int) = r % 4 →
    exec (.orient r) s = .next
      (afterFrame Config.chip (some Config.chip.cmdMadctl) (some [Config.chip.rotTable q])
        { s with
          orientation := q
          width := if q.val % 2 = 0 then 320 else 480
          height := if q.val % 2 = 0 then 480 else 320 })

/-- R108: `ORIENT 0, 1, 2, ...` in turn, from any state: the sizes alternate between the source's pairs
and the index counts modulo 4. -/
def Obligations.OrientationCycles : Prop :=
  ∀ (s : State) (n : Nat),
    ∃ t, execAll ((List.range (n + 1)).map fun k : Nat => Instr.orient (k : Int)) s = .next t ∧
      t.orientation.val = n % 4 ∧
      (t.width, t.height) = if n % 2 = 0 then (320, 480) else (480, 320)

/-- R111, in any state: the backlight is a line (the spec's decision D18). -/
def Obligations.BacklightDrivesItsLine : Prop :=
  ∀ (on : Bit) (s : State),
    exec (.backlight on) s = .next { s with bl := on, trace := s.trace ++ [.line .bl on] }

/-- R112: `INIT r`, the whole next state: the eight steps in their order, each but the first followed
by its settle delay (the steps and the delays are the spec's decisions D11 and D12). -/
def Obligations.InitPerformsItsEightSteps : Prop :=
  ∀ (r : Int) (q : Fin 4) (s : State), InvLast Config.chip s → (q.val : Int) = r % 4 →
    let c := Config.chip
    let inv := if c.initInvert then c.cmdInvon else c.cmdInvoff
    exec (.init r) s = .next
      { s with
        last := some c.cmdDispon
        orientation := q
        width := if q.val % 2 = 0 then 320 else 480
        height := if q.val % 2 = 0 then 480 else 320
        outLo := latchesWith (fullLo c) (setLo c) s.outLo (some c.cmdDispon)
        outHi := latchesWith (fullHi c) (setHi c) s.outHi (some c.cmdDispon)
        cs := true
        dc := false
        rst := false
        bl := true
        trace := s.trace
          ++ [ .line .rst false, .delay 5, .line .rst true, .delay 20, .line .rst false, .delay 150 ]
          ++ frameEvents c s.last (some c.cmdSlpout) none ++ [.delay c.tWake]
          ++ frameEvents c (some c.cmdSlpout) (some c.cmdColmod) (some [c.colmodInit])
          ++ [.delay c.tColmod]
          ++ frameEvents c (some c.colmodInit) (some c.cmdMadctl) (some [c.rotTable q])
          ++ [.delay c.tOrient]
          ++ frameEvents c (some (c.rotTable q)) (some inv) none ++ [.delay c.tInvert]
          ++ frameEvents c (some inv) (some c.cmdNoron) none ++ [.delay c.tNoron]
          ++ [.line .bl true, .delay c.tBl]
          ++ frameEvents c (some c.cmdNoron) (some c.cmdDispon) none ++ [.delay c.tDispon]
        latched := s.latched ++
          [ ⟨false, false, c.cmdSlpout⟩, ⟨false, false, c.cmdColmod⟩, ⟨false, true, c.colmodInit⟩,
            ⟨false, false, c.cmdMadctl⟩, ⟨false, true, c.rotTable q⟩, ⟨false, false, inv⟩,
            ⟨false, false, c.cmdNoron⟩, ⟨false, false, c.cmdDispon⟩ ] }

/-- R114: only `HARDRESET` (three) and `INIT` (ten) emit `DELAY` events (the spec's decision D11). -/
def Obligations.OnlyHardResetAndInitDelay : Prop :=
  ∀ (i : Instr) (s t : State), exec i s = .next t →
    delayCount t.trace = delayCount s.trace +
      (match i with
        | .hardReset => 3
        | .init _ => 10
        | _ => 0)

/-! ### The window -/

/-- R130, R131: `CASET` and `RASET` send their operands as given, two fields, each most significant
byte first, for all values (the layout is the spec's decision D5). -/
def Obligations.RawAddressFramesAreSentAsGiven : Prop :=
  ∀ (first last : Half) (s : State), InvLast Config.chip s →
    exec (.caset first last) s = .next
      (afterFrame Config.chip (some Config.chip.cmdCaset) (some (spanBytes first last)) s) ∧
    exec (.raset first last) s = .next
      (afterFrame Config.chip (some Config.chip.cmdRaset) (some (spanBytes first last)) s)

/-- R132: `RAMWR` is a frame of its own with no data part, and its word. -/
def Obligations.RamWrSendsItsCommand : Prop :=
  (encode .ramWr = (0x220000000000000000, [])) ∧
  ∀ s : State, InvLast Config.chip s →
    exec .ramWr s = .next (afterFrame Config.chip (some Config.chip.cmdRamwr) none s)

/-- R133, R134: a window inside the bounds, which are inclusive, is sent as a column frame, a row frame
and a memory-write frame; any other window changes nothing at all. The payload bytes (`spanBytes`) are
R130's and R131's layout, the spec's decision D5 (log 13). The word is stated for the operands a request
word can express (log 22). `SizesFollowOrientation` rules out the unreachable sizes above 16 bits. -/
def Obligations.SetWindowValidatesThenPrograms : Prop :=
  ∀ (x0 y0 x1 y1 : Int) (s : State),
    (Instr.wellFormed (.setWindow x0 y0 x1 y1) = true →
      encodeFields (.setWindow x0 y0 x1 y1)
        = ⟨0x23, BitVec.ofInt 16 x0, BitVec.ofInt 16 y0, BitVec.ofInt 16 x1,
            BitVec.ofInt 16 y1⟩) ∧
    (¬ WindowInside s x0 y0 x1 y1 → exec (.setWindow x0 y0 x1 y1) s = .next s) ∧
    (∀ xs ys xe ye : Half, WindowInside s x0 y0 x1 y1 → InvLast Config.chip s →
      SizesFollowOrientation s →
      (xs.toNat : Int) = x0 → (ys.toNat : Int) = y0 → (xe.toNat : Int) = x1 →
      (ye.toNat : Int) = y1 →
      exec (.setWindow x0 y0 x1 y1) s = .next
        (afterFrame Config.chip (some Config.chip.cmdRamwr) none
          (afterFrame Config.chip (some Config.chip.cmdRaset) (some (spanBytes ys ye))
            (afterFrame Config.chip (some Config.chip.cmdCaset) (some (spanBytes xs xe)) s))))

/-- Every window inside the bounds has corners that are 16-bit values, so the statement above speaks of
every valid window (R4, R134: "x0, x1 are in 0..S.width, so they are u16"). -/
def Obligations.ValidWindowsFitTheFields : Prop :=
  ∀ (x0 y0 x1 y1 : Int) (s : State), SizesFollowOrientation s → WindowInside s x0 y0 x1 y1 →
    ∃ xs ys xe ye : Half, (xs.toNat : Int) = x0 ∧ (ys.toNat : Int) = y0
      ∧ (xe.toNat : Int) = x1 ∧ (ye.toNat : Int) = y1
      ∧ Instr.wellFormed (.setWindow x0 y0 x1 y1) = true

/-- R135 (h): a valid `SETWINDOW` is exactly `CASET x0, x1`, `RASET y0, y1`, `RAMWR` one after the
other, in any state with 16-bit corners. -/
def Obligations.SetWindowIsThreeRequests : Prop :=
  ∀ (xs ys xe ye : Half) (s : State), WindowInside s xs.toNat ys.toNat xe.toNat ye.toNat →
    exec (.setWindow xs.toNat ys.toNat xe.toNat ye.toNat) s
      = execAll [.caset xs xe, .raset ys ye, .ramWr] s

/-- R137: the window is not remembered: two equal valid windows send six frames. -/
def Obligations.EqualWindowsAreSentAgain : Prop :=
  ∀ (xs ys xe ye : Half) (s : State), InvLast Config.chip s →
    WindowInside s xs.toNat ys.toNat xe.toNat ye.toNat →
    ∃ t, execAll
        [ .setWindow xs.toNat ys.toNat xe.toNat ye.toNat,
          .setWindow xs.toNat ys.toNat xe.toNat ye.toNat ] s = .next t ∧
      t.latched = s.latched ++ windowLatches Config.chip xs ys xe ye
        ++ windowLatches Config.chip xs ys xe ye

/-! ### The scroll controller -/

/-- R150, R151, R152: the scroll records are sent as given, most significant byte first, for all
operands whatever the sizes and the orientation, and their words. -/
def Obligations.ScrollRecordsAreSentAsGiven : Prop :=
  ∀ (tfa vsa bfa off : Half) (s : State), InvLast Config.chip s →
    exec (.vscrDef tfa vsa bfa) s = .next
      (afterFrame Config.chip (some Config.chip.cmdVscrdef)
        (some
          [ tfa.extractLsb' 8 8, tfa.extractLsb' 0 8, vsa.extractLsb' 8 8, vsa.extractLsb' 0 8,
            bfa.extractLsb' 8 8, bfa.extractLsb' 0 8 ]) s) ∧
    exec (.vscSad off) s = .next
      (afterFrame Config.chip (some Config.chip.cmdVscsad)
        (some [off.extractLsb' 8 8, off.extractLsb' 0 8]) s) ∧
    encodeFields (.vscrDef tfa vsa bfa) = ⟨0x30, tfa, vsa, bfa, 0⟩ ∧
    encodeFields (.vscSad off) = ⟨0x31, off, 0, 0, 0⟩

/-! ### The whole machine -/

/-- R161: every request in every state is done or skipped: it appends at least one event, or it is a
`SETWINDOW` and nothing at all has changed. -/
def Obligations.EveryRequestIsDoneOrSkipped : Prop :=
  ∀ (i : Instr) (s : State),
    ∃ t es, exec i s = .next t ∧ t.trace = s.trace ++ es ∧
      (es ≠ [] ∨
        t = s ∧ ∃ x0 y0 x1 y1, i = .setWindow x0 y0 x1 y1 ∧ ¬ WindowInside s x0 y0 x1 y1)

/-- The table of R22, read as what each request leaves unchanged. -/
def Obligations.OnlyTheNamedRequestsWriteEachField : Prop :=
  ∀ (i : Instr) (s t : State), exec i s = .next t →
    (t.requests = s.requests ∧ t.payload = s.payload) ∧
    ((∀ r, i ≠ .orient r ∧ i ≠ .init r) →
      t.orientation = s.orientation ∧ t.width = s.width ∧ t.height = s.height) ∧
    ((∀ r, i ≠ .hardReset ∧ i ≠ .init r) → t.rst = s.rst) ∧
    ((∀ on r, i ≠ .backlight on ∧ i ≠ .init r) → t.bl = s.bl) ∧
    ((i = .hardReset ∨ ∃ on, i = .backlight on) →
      t.last = s.last ∧ t.outLo = s.outLo ∧ t.outHi = s.outHi ∧ t.cs = s.cs ∧ t.dc = s.dc
        ∧ t.latched = s.latched) ∧
    ((∃ b, i = .writeByte b) → t.cs = s.cs ∧ t.dc = s.dc)

/-- R14: no request sets `S.last` back to None (the spec's decision D28). -/
def Obligations.LastByteIsNeverForgotten : Prop :=
  ∀ (i : Instr) (s t : State), exec i s = .next t → s.last ≠ none → t.last ≠ none

/-! ### The host layer and the receiver contract -/

/-- R139: `color565` holds the upper bits of the channels in bits 15:11, 10:5 and 4:0, and so gives the
same for a channel and its truncation. -/
def Obligations.Color565PacksTheChannels : Prop :=
  ∀ r g b : Byte,
    (color565 r g b).extractLsb' 11 5 = r.extractLsb' 3 5 ∧
    (color565 r g b).extractLsb' 5 6 = g.extractLsb' 2 6 ∧
    (color565 r g b).extractLsb' 0 5 = b.extractLsb' 3 5 ∧
    color565 (r &&& 0xF8) (g &&& 0xFC) (b &&& 0xF8) = color565 r g b

/-- R141, R142 (a): `FILLRECT` of a rectangle inside the bounds offers its window and then `w*h` times
the two bytes of the colour, whatever the burst size cuts them into (the byte order of a pixel is the
spec's decision D6, the bursts D23). -/
def Obligations.FillRectStreamsEveryPixel : Prop :=
  ∀ (x y w h : Nat) (color : Half) (s : State), InvLast Config.chip s →
    SizesFollowOrientation s → 1 ≤ w → 1 ≤ h → x + w ≤ s.width + 1 → y + h ≤ s.height + 1 →
    ∃ t, execAll (fillRectRequests x y w h color) s = .next t ∧
      t.latched = s.latched
        ++ windowLatches Config.chip (BitVec.ofNat 16 x) (BitVec.ofNat 16 y)
            (BitVec.ofNat 16 (x + w - 1)) (BitVec.ofNat 16 (y + h - 1))
        ++ (List.replicate (w * h)
            [ Latch.mk false true (color.extractLsb' 8 8),
              Latch.mk false true (color.extractLsb' 0 8) ]).flatten

/-- R138, R140, R142 (b): under the receiver contract, `PIXEL x, y, c` inside the surface puts `c` at
(x, y) and at no other place, whatever the controller was doing before. An assumption about the
controller, not behaviour of the block. -/
def Obligations.PixelLandsAtItsPlace : Prop :=
  ∀ (c : Config) (x y : Half) (color : Half) (s : State) (r : Receiver), WindowCodesDiffer c →
    InvLast c s → SizesFollowOrientation s → x.toNat < s.width → y.toNat < s.height →
    ∃ ls, (runRequests c (pixelRequests x.toNat y.toNat color) s).latched = s.latched ++ ls ∧
      (r.watch c s.width s.height ls).pixels = ((x, y), color) :: r.pixels

/-- R138, R141: under the receiver contract, `FILLRECT` of a rectangle on the surface gives its colour
to every pixel of the rectangle and to no other. An assumption about the controller, not behaviour of
the block. -/
def Obligations.FillRectPaintsItsRectangle : Prop :=
  ∀ (c : Config) (x y w h : Nat) (color : Half) (s : State) (r : Receiver), WindowCodesDiffer c →
    InvLast c s → SizesFollowOrientation s → 1 ≤ w → 1 ≤ h → x + w ≤ s.width → y + h ≤ s.height →
    ∃ ls, (runRequests c (fillRectRequests x y w h color) s).latched = s.latched ++ ls ∧
      ∀ px py : Half,
        (r.watch c s.width s.height ls).pixel px py =
          if x ≤ px.toNat ∧ px.toNat < x + w ∧ y ≤ py.toNat ∧ py.toNat < y + h then some color
          else r.pixel px py

/-- R195, R24: after `HARDRESET` or `SOFTRESET` the controller has forgotten what the block told it,
whatever it was doing before, while the block's orientation and sizes keep their values. That the frame
memory and memory-write mode are forgotten too, and that any drive of the reset line is a reset, are the
model's choices (log 33). An assumption about the controller. -/
def Obligations.ControllerResetsForgetTheBlockKeeps : Prop :=
  ∀ (c : Config) (width height : Nat) (r : Receiver) (s : State) (i : Instr),
    CommandCodesDiffer c → InvLast c s → i = .hardReset ∨ i = .softReset →
    r.between c width height s (runRequests c [i] s) = .afterReset ∧
    (runRequests c [i] s).orientation = s.orientation ∧
    (runRequests c [i] s).width = s.width ∧ (runRequests c [i] s).height = s.height

/-- R24, R107 (c), R195: `ORIENT` tells the controller the byte of the block's orientation and leaves
its window; a raw `WRITEFRAME` with the addressing-mode command turns the controller and leaves the
block's orientation and sizes. An assumption about the
controller (log 33). -/
def Obligations.AddressingModeCanLeaveTheBlocksCopy : Prop :=
  ∀ (c : Config) (width height : Nat) (r : Receiver) (s : State),
    CommandCodesDiffer c → InvLast c s →
    (∀ (k : Int) (q : Fin 4), (q.val : Int) = k % 4 →
      (r.between c width height s (runRequests c [.orient k] s)).addressing = some (c.rotTable q) ∧
      (r.between c width height s (runRequests c [.orient k] s)).col = r.col ∧
      (r.between c width height s (runRequests c [.orient k] s)).row = r.row ∧
      (runRequests c [.orient k] s).orientation = q) ∧
    (∀ v : Byte,
      (r.between c width height s
        (runRequests c [.writeFrameBoth c.cmdMadctl [v]] s)).addressing = some v ∧
      (runRequests c [.writeFrameBoth c.cmdMadctl [v]] s).orientation = s.orientation ∧
      (runRequests c [.writeFrameBoth c.cmdMadctl [v]] s).width = s.width ∧
      (runRequests c [.writeFrameBoth c.cmdMadctl [v]] s).height = s.height)

/-- R195, R112, R24: `INIT k` brings the controller back, whatever it was doing before: awake, in the
colour mode and the orientation of the request, with the inversion of the configuration, displaying. Of
the window, the scroll definition and the pixels nothing is known. For the window and the scroll
definition that is R195's forgetting; for the pixels it is the model's choice, a reset and a turn forget
them, and so is that any drive of the reset line is a reset (log 33) and that a wake forgets what was
told before it (log 34). An assumption about the controller. -/
def Obligations.InitBringsTheControllerBack : Prop :=
  ∀ (c : Config) (width height : Nat) (r : Receiver) (s : State) (k : Int) (q : Fin 4),
    CommandCodesDiffer c → InvLast c s → (q.val : Int) = k % 4 →
    r.between c width height s (runRequests c [.init k] s) =
      { Receiver.afterReset with
        addressing := some (c.rotTable q)
        colorMode := some c.colmodInit
        asleep := some false
        inverted := some c.initInvert
        displaying := some true }

/-- R152, 93 U2: the block sends every scroll request, and an inconsistent one leaves the controller in
"any value": a definition whose parts do not add up to the panel height, and a start outside the scroll
area it was told. A consistent definition, and a start inside the area, is what the controller was then
told. Where the area lies, and that a new definition is held against the old start, are the model's
choices (log 35). An assumption about the controller. -/
def Obligations.InconsistentScrollLosesTheController : Prop :=
  ∀ (c : Config) (width height : Nat) (r : Receiver) (s : State), CommandCodesDiffer c →
    InvLast c s →
    (∀ tfa vsa bfa : Half,
      let known := r.between c width height s (runRequests c [.vscrDef tfa vsa bfa] s)
      (tfa.toNat + vsa.toNat + bfa.toNat ≠ 480 → known = .loseAll) ∧
      (tfa.toNat + vsa.toNat + bfa.toNat = 480 →
        (∀ off, r.scrollStart = some off →
          tfa.toNat ≤ off.toNat ∧ off.toNat < tfa.toNat + vsa.toNat) →
        known = { r with scrollArea := some (tfa, vsa, bfa), phase := .quiet })) ∧
    (∀ tfa vsa bfa off : Half, r.scrollArea = some (tfa, vsa, bfa) →
      let known := r.between c width height s (runRequests c [.vscSad off] s)
      (off.toNat < tfa.toNat ∨ tfa.toNat + vsa.toNat ≤ off.toNat → known = .loseAll) ∧
      (tfa.toNat ≤ off.toNat → off.toNat < tfa.toNat + vsa.toNat →
        known = { r with scrollStart := some off, phase := .quiet }))

/-- R103, R173: of a controller put to sleep nothing is known but that it sleeps, and of one woken
nothing but that it is awake, unless it was known to be awake before: the model's choice, because what
it keeps while asleep is not in the source (log 34). An assumption about the controller. -/
def Obligations.SleepLosesTheController : Prop :=
  ∀ (c : Config) (width height : Nat) (r : Receiver) (s : State), CommandCodesDiffer c →
    InvLast c s →
    r.between c width height s (runRequests c [.sleep true] s)
      = { Receiver.unknown .quiet with asleep := some true } ∧
    (r.asleep ≠ some false →
      r.between c width height s (runRequests c [.sleep false] s)
        = { Receiver.unknown .quiet with asleep := some false }) ∧
    (r.asleep = some false →
      r.between c width height s (runRequests c [.sleep false] s) = { r with phase := .quiet })
end

