-- ==== Sys2Proof/Laws/Decode.lean ====
section
/-!
SUPPORT. The fields of a word and the word of its fields (spec/30_encoding.md R51).
-/

namespace Sys2Proof.Laws

/-- Packing and unpacking fields loses nothing. -/
@[simp] theorem unpack_pack (f : ReqFields) : ReqFields.unpack f.pack = f := by
  obtain ⟨op, a, b, c, d⟩ := f
  simp only [ReqFields.unpack, ReqFields.pack, ReqFields.mk.injEq]
  refine ⟨?_, ?_, ?_, ?_, ?_⟩ <;>
    · apply BitVec.eq_of_getLsbD_eq
      intro k hk
      simp
      grind

/-- Every word is the word of its fields. -/
@[simp] theorem pack_unpack (w : ReqWord) : (ReqFields.unpack w).pack = w := by
  apply BitVec.eq_of_getLsbD_eq
  intro k hk
  simp only [ReqFields.unpack, ReqFields.pack]
  grind

end Sys2Proof.Laws
end

