-- ==== Sys2Proof/Laws/State.lean ====
section
/-!
SUPPORT. One lemma per field of `State` per update, so that no later proof unfolds a record update.
-/

namespace Sys2Proof.Machine

/-! ### `emit` -/

@[simp] theorem State.emit_last (s : State) (e : Event) : (s.emit e).last = s.last := rfl
@[simp] theorem State.emit_orientation (s : State) (e : Event) : (s.emit e).orientation = s.orientation := rfl
@[simp] theorem State.emit_width (s : State) (e : Event) : (s.emit e).width = s.width := rfl
@[simp] theorem State.emit_height (s : State) (e : Event) : (s.emit e).height = s.height := rfl
@[simp] theorem State.emit_outLo (s : State) (e : Event) : (s.emit e).outLo = s.outLo := rfl
@[simp] theorem State.emit_outHi (s : State) (e : Event) : (s.emit e).outHi = s.outHi := rfl
@[simp] theorem State.emit_cs (s : State) (e : Event) : (s.emit e).cs = s.cs := rfl
@[simp] theorem State.emit_dc (s : State) (e : Event) : (s.emit e).dc = s.dc := rfl
@[simp] theorem State.emit_rst (s : State) (e : Event) : (s.emit e).rst = s.rst := rfl
@[simp] theorem State.emit_bl (s : State) (e : Event) : (s.emit e).bl = s.bl := rfl
@[simp] theorem State.emit_trace (s : State) (e : Event) :
    (s.emit e).trace = s.trace ++ [e] := rfl
@[simp] theorem State.emit_latched (s : State) (e : Event) : (s.emit e).latched = s.latched := rfl
@[simp] theorem State.emit_requests (s : State) (e : Event) : (s.emit e).requests = s.requests := rfl
@[simp] theorem State.emit_payload (s : State) (e : Event) : (s.emit e).payload = s.payload := rfl

/-! ### `memWrite` -/

@[simp] theorem State.memWrite_last (s : State) (r : GpioReg) (w : Word) : (s.memWrite r w).last = s.last := by cases r <;> rfl
@[simp] theorem State.memWrite_orientation (s : State) (r : GpioReg) (w : Word) : (s.memWrite r w).orientation = s.orientation := by cases r <;> rfl
@[simp] theorem State.memWrite_width (s : State) (r : GpioReg) (w : Word) : (s.memWrite r w).width = s.width := by cases r <;> rfl
@[simp] theorem State.memWrite_height (s : State) (r : GpioReg) (w : Word) : (s.memWrite r w).height = s.height := by cases r <;> rfl
@[simp] theorem State.memWrite_outLo (s : State) (r : GpioReg) (w : Word) :
    (s.memWrite r w).outLo = if r = .setLo then s.outLo ||| w else if r = .clrLo then s.outLo &&& ~~~w else s.outLo := by
  cases r <;> rfl
@[simp] theorem State.memWrite_outHi (s : State) (r : GpioReg) (w : Word) :
    (s.memWrite r w).outHi = if r = .setHi then s.outHi ||| w else if r = .clrHi then s.outHi &&& ~~~w else s.outHi := by
  cases r <;> rfl
@[simp] theorem State.memWrite_cs (s : State) (r : GpioReg) (w : Word) : (s.memWrite r w).cs = s.cs := by cases r <;> rfl
@[simp] theorem State.memWrite_dc (s : State) (r : GpioReg) (w : Word) : (s.memWrite r w).dc = s.dc := by cases r <;> rfl
@[simp] theorem State.memWrite_rst (s : State) (r : GpioReg) (w : Word) : (s.memWrite r w).rst = s.rst := by cases r <;> rfl
@[simp] theorem State.memWrite_bl (s : State) (r : GpioReg) (w : Word) : (s.memWrite r w).bl = s.bl := by cases r <;> rfl
@[simp] theorem State.memWrite_trace (s : State) (r : GpioReg) (w : Word) :
    (s.memWrite r w).trace = s.trace ++ [.write r w] := by cases r <;> rfl
@[simp] theorem State.memWrite_latched (s : State) (r : GpioReg) (w : Word) : (s.memWrite r w).latched = s.latched := by cases r <;> rfl
@[simp] theorem State.memWrite_requests (s : State) (r : GpioReg) (w : Word) : (s.memWrite r w).requests = s.requests := by cases r <;> rfl
@[simp] theorem State.memWrite_payload (s : State) (r : GpioReg) (w : Word) : (s.memWrite r w).payload = s.payload := by cases r <;> rfl

/-! ### `drive` -/

@[simp] theorem State.drive_last (s : State) (l : Line) (v : Bit) : (s.drive l v).last = s.last := by cases l <;> rfl
@[simp] theorem State.drive_orientation (s : State) (l : Line) (v : Bit) : (s.drive l v).orientation = s.orientation := by cases l <;> rfl
@[simp] theorem State.drive_width (s : State) (l : Line) (v : Bit) : (s.drive l v).width = s.width := by cases l <;> rfl
@[simp] theorem State.drive_height (s : State) (l : Line) (v : Bit) : (s.drive l v).height = s.height := by cases l <;> rfl
@[simp] theorem State.drive_outLo (s : State) (l : Line) (v : Bit) : (s.drive l v).outLo = s.outLo := by cases l <;> rfl
@[simp] theorem State.drive_outHi (s : State) (l : Line) (v : Bit) : (s.drive l v).outHi = s.outHi := by cases l <;> rfl
@[simp] theorem State.drive_cs (s : State) (l : Line) (v : Bit) :
    (s.drive l v).cs = if l = .cs then v else s.cs := by cases l <;> rfl
@[simp] theorem State.drive_dc (s : State) (l : Line) (v : Bit) :
    (s.drive l v).dc = if l = .dc then v else s.dc := by cases l <;> rfl
@[simp] theorem State.drive_rst (s : State) (l : Line) (v : Bit) :
    (s.drive l v).rst = if l = .rst then v else s.rst := by cases l <;> rfl
@[simp] theorem State.drive_bl (s : State) (l : Line) (v : Bit) :
    (s.drive l v).bl = if l = .bl then v else s.bl := by cases l <;> rfl
@[simp] theorem State.drive_trace (s : State) (l : Line) (v : Bit) :
    (s.drive l v).trace = s.trace ++ [.line l v] := by cases l <;> rfl
@[simp] theorem State.drive_latched (s : State) (l : Line) (v : Bit) : (s.drive l v).latched = s.latched := by cases l <;> rfl
@[simp] theorem State.drive_requests (s : State) (l : Line) (v : Bit) : (s.drive l v).requests = s.requests := by cases l <;> rfl
@[simp] theorem State.drive_payload (s : State) (l : Line) (v : Bit) : (s.drive l v).payload = s.payload := by cases l <;> rfl

/-! ### `strobe` -/

@[simp] theorem State.strobe_last (s : State) (c : Config) : (s.strobe c).last = s.last := rfl
@[simp] theorem State.strobe_orientation (s : State) (c : Config) : (s.strobe c).orientation = s.orientation := rfl
@[simp] theorem State.strobe_width (s : State) (c : Config) : (s.strobe c).width = s.width := rfl
@[simp] theorem State.strobe_height (s : State) (c : Config) : (s.strobe c).height = s.height := rfl
@[simp] theorem State.strobe_outLo (s : State) (c : Config) : (s.strobe c).outLo = s.outLo := rfl
@[simp] theorem State.strobe_outHi (s : State) (c : Config) : (s.strobe c).outHi = s.outHi := rfl
@[simp] theorem State.strobe_cs (s : State) (c : Config) : (s.strobe c).cs = s.cs := rfl
@[simp] theorem State.strobe_dc (s : State) (c : Config) : (s.strobe c).dc = s.dc := rfl
@[simp] theorem State.strobe_rst (s : State) (c : Config) : (s.strobe c).rst = s.rst := rfl
@[simp] theorem State.strobe_bl (s : State) (c : Config) : (s.strobe c).bl = s.bl := rfl
@[simp] theorem State.strobe_trace (s : State) (c : Config) :
    (s.strobe c).trace = s.trace ++ [.strobe] := rfl
@[simp] theorem State.strobe_latched (s : State) (c : Config) :
    (s.strobe c).latched = s.latched ++ [⟨s.cs, s.dc, s.bus c⟩] := rfl
@[simp] theorem State.strobe_requests (s : State) (c : Config) : (s.strobe c).requests = s.requests := rfl
@[simp] theorem State.strobe_payload (s : State) (c : Config) : (s.strobe c).payload = s.payload := rfl

/-! ### `recordLast` -/

@[simp] theorem State.recordLast_last (s : State) (b : Byte) :
    (s.recordLast b).last = some b := rfl
@[simp] theorem State.recordLast_orientation (s : State) (b : Byte) : (s.recordLast b).orientation = s.orientation := rfl
@[simp] theorem State.recordLast_width (s : State) (b : Byte) : (s.recordLast b).width = s.width := rfl
@[simp] theorem State.recordLast_height (s : State) (b : Byte) : (s.recordLast b).height = s.height := rfl
@[simp] theorem State.recordLast_outLo (s : State) (b : Byte) : (s.recordLast b).outLo = s.outLo := rfl
@[simp] theorem State.recordLast_outHi (s : State) (b : Byte) : (s.recordLast b).outHi = s.outHi := rfl
@[simp] theorem State.recordLast_cs (s : State) (b : Byte) : (s.recordLast b).cs = s.cs := rfl
@[simp] theorem State.recordLast_dc (s : State) (b : Byte) : (s.recordLast b).dc = s.dc := rfl
@[simp] theorem State.recordLast_rst (s : State) (b : Byte) : (s.recordLast b).rst = s.rst := rfl
@[simp] theorem State.recordLast_bl (s : State) (b : Byte) : (s.recordLast b).bl = s.bl := rfl
@[simp] theorem State.recordLast_trace (s : State) (b : Byte) : (s.recordLast b).trace = s.trace := rfl
@[simp] theorem State.recordLast_latched (s : State) (b : Byte) : (s.recordLast b).latched = s.latched := rfl
@[simp] theorem State.recordLast_requests (s : State) (b : Byte) : (s.recordLast b).requests = s.requests := rfl
@[simp] theorem State.recordLast_payload (s : State) (b : Byte) : (s.recordLast b).payload = s.payload := rfl

/-! ### `setOrientation` -/

@[simp] theorem State.setOrientation_last (s : State) (q : Fin 4) : (s.setOrientation q).last = s.last := rfl
@[simp] theorem State.setOrientation_orientation (s : State) (q : Fin 4) :
    (s.setOrientation q).orientation = q := rfl
@[simp] theorem State.setOrientation_width (s : State) (q : Fin 4) :
    (s.setOrientation q).width = surfaceWidth q := rfl
@[simp] theorem State.setOrientation_height (s : State) (q : Fin 4) :
    (s.setOrientation q).height = surfaceHeight q := rfl
@[simp] theorem State.setOrientation_outLo (s : State) (q : Fin 4) : (s.setOrientation q).outLo = s.outLo := rfl
@[simp] theorem State.setOrientation_outHi (s : State) (q : Fin 4) : (s.setOrientation q).outHi = s.outHi := rfl
@[simp] theorem State.setOrientation_cs (s : State) (q : Fin 4) : (s.setOrientation q).cs = s.cs := rfl
@[simp] theorem State.setOrientation_dc (s : State) (q : Fin 4) : (s.setOrientation q).dc = s.dc := rfl
@[simp] theorem State.setOrientation_rst (s : State) (q : Fin 4) : (s.setOrientation q).rst = s.rst := rfl
@[simp] theorem State.setOrientation_bl (s : State) (q : Fin 4) : (s.setOrientation q).bl = s.bl := rfl
@[simp] theorem State.setOrientation_trace (s : State) (q : Fin 4) : (s.setOrientation q).trace = s.trace := rfl
@[simp] theorem State.setOrientation_latched (s : State) (q : Fin 4) : (s.setOrientation q).latched = s.latched := rfl
@[simp] theorem State.setOrientation_requests (s : State) (q : Fin 4) : (s.setOrientation q).requests = s.requests := rfl
@[simp] theorem State.setOrientation_payload (s : State) (q : Fin 4) : (s.setOrientation q).payload = s.payload := rfl

/-! ### `writeWords` -/

@[simp] theorem State.writeWords_last (s : State) (m : MaskEntry) : (s.writeWords m).last = s.last := rfl
@[simp] theorem State.writeWords_orientation (s : State) (m : MaskEntry) : (s.writeWords m).orientation = s.orientation := rfl
@[simp] theorem State.writeWords_width (s : State) (m : MaskEntry) : (s.writeWords m).width = s.width := rfl
@[simp] theorem State.writeWords_height (s : State) (m : MaskEntry) : (s.writeWords m).height = s.height := rfl
@[simp] theorem State.writeWords_outLo (s : State) (m : MaskEntry) :
    (s.writeWords m).outLo = (s.outLo ||| m.setLo) &&& ~~~m.clrLo := by
  simp [State.writeWords]
@[simp] theorem State.writeWords_outHi (s : State) (m : MaskEntry) :
    (s.writeWords m).outHi = (s.outHi ||| m.setHi) &&& ~~~m.clrHi := by
  simp [State.writeWords]
@[simp] theorem State.writeWords_cs (s : State) (m : MaskEntry) : (s.writeWords m).cs = s.cs := rfl
@[simp] theorem State.writeWords_dc (s : State) (m : MaskEntry) : (s.writeWords m).dc = s.dc := rfl
@[simp] theorem State.writeWords_rst (s : State) (m : MaskEntry) : (s.writeWords m).rst = s.rst := rfl
@[simp] theorem State.writeWords_bl (s : State) (m : MaskEntry) : (s.writeWords m).bl = s.bl := rfl
@[simp] theorem State.writeWords_trace (s : State) (m : MaskEntry) :
    (s.writeWords m).trace = s.trace ++ [.write .setLo m.setLo, .write .setHi m.setHi,
      .write .clrLo m.clrLo, .write .clrHi m.clrHi] := by
  simp [State.writeWords]
@[simp] theorem State.writeWords_latched (s : State) (m : MaskEntry) : (s.writeWords m).latched = s.latched := rfl
@[simp] theorem State.writeWords_requests (s : State) (m : MaskEntry) : (s.writeWords m).requests = s.requests := rfl
@[simp] theorem State.writeWords_payload (s : State) (m : MaskEntry) : (s.writeWords m).payload = s.payload := rfl

/-! ### `awaiting` -/

@[simp] theorem State.awaiting_last (s : State) (words : List ReqWord) (stream : List Byte) : (s.awaiting words stream).last = s.last := rfl
@[simp] theorem State.awaiting_orientation (s : State) (words : List ReqWord) (stream : List Byte) : (s.awaiting words stream).orientation = s.orientation := rfl
@[simp] theorem State.awaiting_width (s : State) (words : List ReqWord) (stream : List Byte) : (s.awaiting words stream).width = s.width := rfl
@[simp] theorem State.awaiting_height (s : State) (words : List ReqWord) (stream : List Byte) : (s.awaiting words stream).height = s.height := rfl
@[simp] theorem State.awaiting_outLo (s : State) (words : List ReqWord) (stream : List Byte) : (s.awaiting words stream).outLo = s.outLo := rfl
@[simp] theorem State.awaiting_outHi (s : State) (words : List ReqWord) (stream : List Byte) : (s.awaiting words stream).outHi = s.outHi := rfl
@[simp] theorem State.awaiting_cs (s : State) (words : List ReqWord) (stream : List Byte) : (s.awaiting words stream).cs = s.cs := rfl
@[simp] theorem State.awaiting_dc (s : State) (words : List ReqWord) (stream : List Byte) : (s.awaiting words stream).dc = s.dc := rfl
@[simp] theorem State.awaiting_rst (s : State) (words : List ReqWord) (stream : List Byte) : (s.awaiting words stream).rst = s.rst := rfl
@[simp] theorem State.awaiting_bl (s : State) (words : List ReqWord) (stream : List Byte) : (s.awaiting words stream).bl = s.bl := rfl
@[simp] theorem State.awaiting_trace (s : State) (words : List ReqWord) (stream : List Byte) : (s.awaiting words stream).trace = s.trace := rfl
@[simp] theorem State.awaiting_latched (s : State) (words : List ReqWord) (stream : List Byte) : (s.awaiting words stream).latched = s.latched := rfl
@[simp] theorem State.awaiting_requests (s : State) (words : List ReqWord) (stream : List Byte) :
    (s.awaiting words stream).requests = words := rfl
@[simp] theorem State.awaiting_payload (s : State) (words : List ReqWord) (stream : List Byte) :
    (s.awaiting words stream).payload = stream := rfl

end Sys2Proof.Machine
end

