-- ==== Sys2Proof/Laws/Mask.lean ====
section
/-!
SUPPORT. The pin assignment and the mask table bit by bit (spec/40_mask_table.md R71 to R73): what a
set word and a clear word hold at each GPIO.
-/

namespace Sys2Proof.Laws

open Sys2Proof.Machine Sys2Proof.Safety

/-- R6: `PINMAP` is injective. -/
theorem pin_injective (c : Config) : Function.Injective c.pin := fun i j h =>
  Fin.castLE_injective (by decide) (c.gpioOrder.injective h)

@[simp] theorem pin_eq_iff (c : Config) (i j : Fin 8) : c.pin i = c.pin j ↔ i = j :=
  (pin_injective c).eq_iff

/-- Every injective `PINMAP` is the pin assignment of some configuration: nothing R4 and R6 allow is
left out by `Config.gpioOrder`. -/
theorem every_pinmap_arises (pinmap : Fin 8 → Fin 64) (h : Function.Injective pinmap) :
    ∃ c : Config, c.pin = pinmap := by
  obtain ⟨σ, hσ⟩ := Equiv.Perm.exists_extending_pair
    (fun i : Fin 8 => i.castLE (by decide : 8 ≤ 64)) pinmap (Fin.castLE_injective (by decide)) h
  exact ⟨{ Config.ref with gpioOrder := σ }, funext hσ⟩

/-- Bit `p` of a pair of words over the 64 GPIOs, the low word first. -/
def pairBit (lo hi : Word) (p : Fin 64) : Bit :=
  if p.val < 32 then lo.getLsbD p.val else hi.getLsbD (p.val - 32)

theorem gpio_eq_pairBit (s : State) (p : Fin 64) : s.gpio p = pairBit s.outLo s.outHi p := rfl

@[simp] theorem pairBit_or (a b a' b' : Word) (p : Fin 64) :
    pairBit (a ||| b) (a' ||| b') p = (pairBit a a' p || pairBit b b' p) := by
  unfold pairBit; split <;> simp

@[simp] theorem pairBit_xor (a b a' b' : Word) (p : Fin 64) :
    pairBit (a ^^^ b) (a' ^^^ b') p = (pairBit a a' p ^^ pairBit b b' p) := by
  unfold pairBit; split <;> simp

@[simp] theorem pairBit_and (a b a' b' : Word) (p : Fin 64) :
    pairBit (a &&& b) (a' &&& b') p = (pairBit a a' p && pairBit b b' p) := by
  unfold pairBit; split <;> simp

@[simp] theorem pairBit_not (a a' : Word) (p : Fin 64) :
    pairBit (~~~a) (~~~a') p = !pairBit a a' p := by
  have := p.isLt
  unfold pairBit; split <;> simp <;> omega

/-- Two pairs of words are equal when they agree at every GPIO. -/
theorem pair_ext {lo hi lo' hi' : Word} (h : ∀ p, pairBit lo hi p = pairBit lo' hi' p) :
    lo = lo' ∧ hi = hi' := by
  constructor
  · apply BitVec.eq_of_getLsbD_eq
    intro i hi32
    simpa [pairBit, hi32] using h ⟨i, by omega⟩
  · apply BitVec.eq_of_getLsbD_eq
    intro i hi32
    simpa [pairBit] using h ⟨i + 32, by omega⟩

/-- A pin's words have a 1 at that GPIO alone (R71). -/
theorem pin_bit (c : Config) (i : Fin 8) (p : Fin 64) :
    pairBit (pinLo c i) (pinHi c i) p = decide (c.pin i = p) := by
  have := p.isLt
  have := (c.pin i).isLt
  rw [Bool.eq_iff_iff]
  simp only [pairBit, pinLo, pinHi, decide_eq_true_eq, Fin.ext_iff]
  split <;> split <;> simp <;> omega

theorem orOfPins_bit (pins : Fin 8 → Word) (v : Byte) (k : Nat) :
    (orOfPins pins v).getLsbD k
      = byteBits.any fun i => v.getLsbD i.val && (pins i).getLsbD k := by
  unfold orOfPins
  induction byteBits with
  | nil => simp
  | cons i is ih =>
    simp only [List.foldr_cons, BitVec.getLsbD_or, ih, List.any_cons]
    cases v.getLsbD i.val <;> simp

/-- R71: the set words hold a 1 at a GPIO exactly when it carries a 1 bit of the byte. -/
theorem set_bit (c : Config) (v : Byte) (p : Fin 64) :
    pairBit (setLo c v) (setHi c v) p
      = byteBits.any fun i => v.getLsbD i.val && decide (c.pin i = p) := by
  simp only [← pin_bit]
  unfold pairBit setLo setHi
  split <;> simp [orOfPins_bit]

/-- R71: the set words at a data pin hold the byte's bit. -/
@[simp] theorem set_bit_pin (c : Config) (v : Byte) (i : Fin 8) :
    pairBit (setLo c v) (setHi c v) (c.pin i) = v.getLsbD i.val := by
  rw [set_bit]
  simp only [pin_eq_iff, byteBits]
  fin_cases i <;> simp

/-- `FULL` holds a 1 at the data pins and nowhere else (R71). -/
theorem full_bit (c : Config) (p : Fin 64) :
    pairBit (fullLo c) (fullHi c) p = byteBits.any fun i => decide (c.pin i = p) := by
  unfold fullLo fullHi
  rw [set_bit]
  simp [byteBits]

@[simp] theorem full_bit_pin (c : Config) (i : Fin 8) :
    pairBit (fullLo c) (fullHi c) (c.pin i) = true := by
  rw [full_bit]
  simp only [pin_eq_iff, byteBits]
  fin_cases i <;> simp

/-- A GPIO carries a data pin or no byte has a set bit there. -/
theorem pin_or_clear (c : Config) (p : Fin 64) :
    (∃ i, c.pin i = p) ∨
      (pairBit (fullLo c) (fullHi c) p = false
        ∧ ∀ v, pairBit (setLo c v) (setHi c v) p = false) := by
  by_cases h : ∃ i, c.pin i = p
  · exact .inl h
  · push Not at h
    refine .inr ⟨?_, fun v => ?_⟩
    · rw [full_bit]; simp [h]
    · rw [set_bit]; simp [h]

/-- R82: after the four writes of `MASKFOR v`, the pins hold `v` and the other GPIOs are as before. -/
theorem writes_give_latches (c : Config) (v : Byte) (lo hi : Word) :
    (lo ||| (maskFor c v).setLo) &&& ~~~(maskFor c v).clrLo
        = latchesWith (fullLo c) (setLo c) lo (some v)
      ∧ (hi ||| (maskFor c v).setHi) &&& ~~~(maskFor c v).clrHi
        = latchesWith (fullHi c) (setHi c) hi (some v) := by
  apply pair_ext
  intro p
  simp only [maskFor, latchesWith, pairBit_and, pairBit_or, pairBit_not, pairBit_xor]
  obtain ⟨i, rfl⟩ | ⟨hf, hs⟩ := pin_or_clear c p
  · simp +contextual
  · simp [hf, hs]

theorem bus_bit (c : Config) (s : State) (i : Fin 8) :
    (s.bus c).getLsbD i.val = pairBit s.outLo s.outHi (c.pin i) := by
  simp [State.bus, gpio_eq_pairBit]

/-- The bus holds `v` exactly when the latches are those with `v` on the data pins (R21). -/
theorem bus_eq_iff (c : Config) (s : State) (v : Byte) :
    s.bus c = v ↔ s.outLo = latchesWith (fullLo c) (setLo c) s.outLo (some v)
      ∧ s.outHi = latchesWith (fullHi c) (setHi c) s.outHi (some v) := by
  constructor
  · rintro rfl
    apply pair_ext
    intro p
    simp only [latchesWith, pairBit_and, pairBit_or, pairBit_not]
    obtain ⟨i, rfl⟩ | ⟨hf, hs⟩ := pin_or_clear c p
    · rw [set_bit_pin, full_bit_pin, bus_bit]; simp
    · simp [hf, hs]
  · rintro ⟨h1, h2⟩
    apply BitVec.eq_of_getLsbD_eq
    intro k hk
    have := bus_bit c s ⟨k, hk⟩
    simp only at this
    rw [this, h1, h2]
    simp only [latchesWith, pairBit_and, pairBit_or, pairBit_not, set_bit_pin, full_bit_pin]
    simp

/-- Latches made to hold `v` on the data pins do hold it (R82). -/
theorem bus_of_latches (c : Config) (s : State) (v : Byte) (lo hi : Word)
    (h1 : s.outLo = latchesWith (fullLo c) (setLo c) lo (some v))
    (h2 : s.outHi = latchesWith (fullHi c) (setHi c) hi (some v)) : s.bus c = v := by
  apply BitVec.eq_of_getLsbD_eq
  intro k hk
  have := bus_bit c s ⟨k, hk⟩
  simp only at this
  rw [this, h1, h2]
  simp only [latchesWith, pairBit_and, pairBit_or, pairBit_not, set_bit_pin, full_bit_pin]
  simp

end Sys2Proof.Laws
end

