-- ==== Sys2Proof/Laws/Ops.lean ====
section
/-!
SUPPORT. One lemma per shared operation that says once everything it does: `writeByte`, a list of
bytes, a frame, and a run of actions.
-/

namespace Sys2Proof.Laws

open Sys2Proof.Machine Sys2Proof.Safety

/-! ### Runs of actions -/

@[simp] theorem run_nil (c : Config) (s : State) : run c [] s = s := rfl

@[simp] theorem run_cons (c : Config) (a : Act) (as : List Act) (s : State) :
    run c (a :: as) s = run c as (perform c s a) := rfl

@[simp] theorem run_append (c : Config) (as bs : List Act) (s : State) :
    run c (as ++ bs) s = run c bs (run c as s) := List.foldl_append

/-- A property that every action keeps is kept by a run: the induction, once. -/
theorem run_keeps (c : Config) (P : State → Prop) (as : List Act)
    (h : ∀ s, ∀ a ∈ as, P s → P (perform c s a)) (s : State) (hs : P s) : P (run c as s) := by
  induction as generalizing s with
  | nil => exact hs
  | cons a as ih =>
    exact ih (fun t b hb => h t b (List.mem_cons_of_mem a hb)) _ (h s a List.mem_cons_self hs)

/-! ### `WRITEBYTE` -/

theorem repeatsLast_iff (s : State) (b : Byte) : repeatsLast s b = true ↔ s.last = some b := by
  simp [repeatsLast]

/-- R80, the then branch: a repeated byte is strobed and nothing else happens. -/
theorem writeByte_repeated (c : Config) (s : State) (b : Byte) (h : s.last = some b) :
    s.writeByte c b = s.strobe c := by
  simp [State.writeByte, repeatsLast, h]

/-- R80, the else branch, in any state: the events in their order, the byte on the pins, offered
to the controller and recorded. -/
theorem writeByte_fresh (c : Config) (s : State) (b : Byte) (h : s.last ≠ some b) :
    s.writeByte c b =
      { s with
        last := some b
        outLo := latchesWith (fullLo c) (setLo c) s.outLo (some b)
        outHi := latchesWith (fullHi c) (setHi c) s.outHi (some b)
        trace := s.trace ++ byteEvents c s.last b
        latched := s.latched ++ [⟨s.cs, s.dc, b⟩] } := by
  obtain ⟨h1, h2⟩ := writes_give_latches c b s.outLo s.outHi
  have hb : (s.writeWords (maskFor c b)).bus c = b :=
    bus_of_latches c _ b s.outLo s.outHi (by simpa using h1) (by simpa using h2)
  have hr : repeatsLast s b = false := by simpa [repeatsLast] using h
  simp only [State.writeByte, hr, Bool.false_eq_true, if_false, State.strobe, State.recordLast, hb,
    byteEvents, h, State.writeWords_trace, State.writeWords_cs, State.writeWords_dc,
    State.writeWords_latched, List.append_assoc, List.cons_append, List.nil_append]
  rw [← h1, ← h2]
  rfl

/-- R82: from a state whose pins hold the last byte, `WRITEBYTE b` ends with `b` on the pins,
recorded and offered, whichever branch it takes. -/
theorem writeByte_spec (c : Config) (s : State) (b : Byte) (h : InvLast c s) :
    s.writeByte c b =
      { s with
        last := some b
        outLo := latchesWith (fullLo c) (setLo c) s.outLo (some b)
        outHi := latchesWith (fullHi c) (setHi c) s.outHi (some b)
        trace := s.trace ++ byteEvents c s.last b
        latched := s.latched ++ [⟨s.cs, s.dc, b⟩] } := by
  by_cases hb : s.last = some b
  · obtain ⟨h1, h2⟩ := (bus_eq_iff c s b).1 (h b hb)
    rw [writeByte_repeated c s b hb, ← h1, ← h2]
    simp [State.strobe, h b hb, byteEvents, hb]
  · exact writeByte_fresh c s b hb

/-- R82: after `WRITEBYTE b` from any state `INV_LAST` holds, if it held before. -/
theorem writeByte_invLast (c : Config) (s : State) (b : Byte) (h : InvLast c s) :
    InvLast c (s.writeByte c b) := by
  rw [writeByte_spec c s b h]
  intro v hv
  obtain rfl : b = v := by simpa using hv
  exact bus_of_latches c _ b s.outLo s.outHi rfl rfl

@[simp] theorem writeByte_last (c : Config) (s : State) (b : Byte) :
    (s.writeByte c b).last = some b := by
  by_cases h : s.last = some b
  · rw [writeByte_repeated c s b h]; exact h
  · rw [writeByte_fresh c s b h]

@[simp] theorem writeByte_trace (c : Config) (s : State) (b : Byte) :
    (s.writeByte c b).trace = s.trace ++ byteEvents c s.last b := by
  by_cases h : s.last = some b
  · rw [writeByte_repeated c s b h]; simp [byteEvents, h]
  · rw [writeByte_fresh c s b h]

/-! `WRITEBYTE` leaves every line, the sizes and the host's side alone (R22). -/

@[simp] theorem writeByte_orientation (c : Config) (s : State) (b : Byte) :
    (s.writeByte c b).orientation = s.orientation := by
  unfold State.writeByte; split <;> simp

@[simp] theorem writeByte_width (c : Config) (s : State) (b : Byte) :
    (s.writeByte c b).width = s.width := by
  unfold State.writeByte; split <;> simp

@[simp] theorem writeByte_height (c : Config) (s : State) (b : Byte) :
    (s.writeByte c b).height = s.height := by
  unfold State.writeByte; split <;> simp

@[simp] theorem writeByte_cs (c : Config) (s : State) (b : Byte) :
    (s.writeByte c b).cs = s.cs := by
  unfold State.writeByte; split <;> simp

@[simp] theorem writeByte_dc (c : Config) (s : State) (b : Byte) :
    (s.writeByte c b).dc = s.dc := by
  unfold State.writeByte; split <;> simp

@[simp] theorem writeByte_rst (c : Config) (s : State) (b : Byte) :
    (s.writeByte c b).rst = s.rst := by
  unfold State.writeByte; split <;> simp

@[simp] theorem writeByte_bl (c : Config) (s : State) (b : Byte) :
    (s.writeByte c b).bl = s.bl := by
  unfold State.writeByte; split <;> simp

@[simp] theorem writeByte_requests (c : Config) (s : State) (b : Byte) :
    (s.writeByte c b).requests = s.requests := by
  unfold State.writeByte; split <;> simp

@[simp] theorem writeByte_payload (c : Config) (s : State) (b : Byte) :
    (s.writeByte c b).payload = s.payload := by
  unfold State.writeByte; split <;> simp

/-- One strobe a byte: one more entry is latched, with the levels the lines have (R20). -/
theorem writeByte_latched (c : Config) (s : State) (b : Byte) :
    ∃ v, (s.writeByte c b).latched = s.latched ++ [⟨s.cs, s.dc, v⟩] := by
  by_cases h : s.last = some b
  · exact ⟨s.bus c, by rw [writeByte_repeated c s b h]; simp⟩
  · exact ⟨b, by rw [writeByte_fresh c s b h]⟩

@[simp] theorem perform_line (c : Config) (s : State) (l : Line) (v : Bit) :
    perform c s (.line l v) = s.drive l v := rfl

@[simp] theorem perform_byte (c : Config) (s : State) (b : Byte) :
    perform c s (.byte b) = s.writeByte c b := rfl

@[simp] theorem perform_delay (c : Config) (s : State) (t : Nat) :
    perform c s (.delay t) = s.emit (.delay t) := rfl

@[simp] theorem perform_turn (c : Config) (s : State) (q : Fin 4) :
    perform c s (.turn q) = s.setOrientation q := rfl

/-! ### `WRITEFRAME` -/

/-- Bytes after a first one leave as last what they leave after any other. -/
theorem lastAfter_cons (l l' : Option Byte) (v : Byte) (vs : List Byte) :
    lastAfter l (v :: vs) = lastAfter l' (v :: vs) := rfl

theorem lastAfter_append (l : Option Byte) (us vs : List Byte) :
    lastAfter l (us ++ vs) = lastAfter (lastAfter l us) vs := by
  induction us generalizing l with
  | nil => rfl
  | cons u us ih => exact ih (some u)

/-- Driving the data pins twice is driving them the second time (R73). -/
theorem latchesWith_twice (c : Config) (lo hi : Word) (u v : Byte) :
    latchesWith (fullLo c) (setLo c) (latchesWith (fullLo c) (setLo c) lo (some u)) (some v)
        = latchesWith (fullLo c) (setLo c) lo (some v)
      ∧ latchesWith (fullHi c) (setHi c) (latchesWith (fullHi c) (setHi c) hi (some u)) (some v)
        = latchesWith (fullHi c) (setHi c) hi (some v) := by
  apply pair_ext
  intro p
  simp only [latchesWith, pairBit_and, pairBit_or, pairBit_not]
  obtain ⟨i, rfl⟩ | ⟨hf, hs⟩ := pin_or_clear c p
  · simp
  · simp [hf, hs]

/-- The latches after a byte and then more bytes are those after the last of them. -/
theorem latchesWith_then (c : Config) (lo hi : Word) (u : Byte) (vs : List Byte) :
    latchesWith (fullLo c) (setLo c) (latchesWith (fullLo c) (setLo c) lo (some u))
          (lastAfter none vs)
        = latchesWith (fullLo c) (setLo c) lo (lastAfter (some u) vs)
      ∧ latchesWith (fullHi c) (setHi c) (latchesWith (fullHi c) (setHi c) hi (some u))
          (lastAfter none vs)
        = latchesWith (fullHi c) (setHi c) hi (lastAfter (some u) vs) := by
  cases vs with
  | nil => exact ⟨rfl, rfl⟩
  | cons v vs =>
    obtain ⟨w, hw⟩ : ∃ w, lastAfter (some v) vs = some w := by
      clear u
      induction vs generalizing v with
      | nil => exact ⟨v, rfl⟩
      | cons v' vs ih => exact ih v'
    simp only [lastAfter, hw]
    exact latchesWith_twice c lo hi u w

/-- The bytes of a frame part, in order, from a state whose pins hold the last byte (R84, R87). -/
theorem run_bytes (c : Config) (ds : List Byte) (s : State) (h : InvLast c s) :
    run c (ds.map .byte) s =
      { s with
        last := lastAfter s.last ds
        outLo := latchesWith (fullLo c) (setLo c) s.outLo (lastAfter none ds)
        outHi := latchesWith (fullHi c) (setHi c) s.outHi (lastAfter none ds)
        trace := s.trace ++ bytesEvents c s.last ds
        latched := s.latched ++ ds.map (Latch.mk s.cs s.dc) } := by
  induction ds generalizing s with
  | nil => simp [lastAfter, bytesEvents, latchesWith]
  | cons d ds ih =>
    obtain ⟨h1, h2⟩ := latchesWith_then c s.outLo s.outHi d ds
    simp only [List.map_cons, run_cons, perform_byte]
    rw [ih _ (writeByte_invLast c s d h), writeByte_spec c s d h]
    simp [h1, h2, lastAfter, bytesEvents]

/-- `INV_LAST` depends on the last byte and the latches alone. -/
theorem invLast_congr {c : Config} {s t : State} (h : InvLast c s) (hl : t.last = s.last)
    (hlo : t.outLo = s.outLo) (hhi : t.outHi = s.outHi) : InvLast c t := by
  intro b hb
  rw [← h b (hl ▸ hb)]
  simp [State.bus, State.gpio, hlo, hhi]

theorem drive_invLast {c : Config} {s : State} (l : Line) (v : Bit) (h : InvLast c s) :
    InvLast c (s.drive l v) := invLast_congr h (by simp) (by simp) (by simp)

theorem emit_invLast {c : Config} {s : State} (e : Event) (h : InvLast c s) :
    InvLast c (s.emit e) := invLast_congr h rfl rfl rfl

theorem setOrientation_invLast {c : Config} {s : State} (q : Fin 4) (h : InvLast c s) :
    InvLast c (s.setOrientation q) := invLast_congr h rfl rfl rfl

/-- R21: every action keeps `INV_LAST`, and so does every run of actions. -/
theorem run_invLast (c : Config) (as : List Act) (s : State) (h : InvLast c s) :
    InvLast c (run c as s) :=
  run_keeps c (InvLast c) as (fun s a _ hs => by
    cases a with
    | line l v => exact drive_invLast l v hs
    | byte b => exact writeByte_invLast c s b hs
    | delay t => exact emit_invLast _ hs
    | turn q => exact setOrientation_invLast q hs) s h

/-- R84, R56, R87: a frame, from a state whose pins hold the last byte, changes exactly what
`afterFrame` says. -/
theorem run_frame (c : Config) (cmd : Option Byte) (data : Option (List Byte)) (s : State)
    (h : InvLast c s) : run c (frame cmd data) s = afterFrame c cmd data s := by
  have hcs := drive_invLast .cs false h
  cases cmd with
  | none =>
    cases data with
    | none =>
      simp [frame, commandPart, dataPart, afterFrame, State.drive, frameBytes, lastAfter,
        latchesWith, frameDc, frameEvents, frameLatches]
    | some ds =>
      simp only [frame, commandPart, dataPart, run_cons, run_append, run_nil, perform_line,
        List.nil_append]
      rw [run_bytes c ds _ (drive_invLast .dc true hcs)]
      simp [afterFrame, State.drive, frameBytes, frameDc, frameEvents, frameLatches, lastAfter]
  | some k =>
    have hk := drive_invLast .dc false hcs
    cases data with
    | none =>
      simp only [frame, commandPart, dataPart, run_cons, run_append, run_nil, perform_line,
        perform_byte]
      rw [writeByte_spec c _ k hk]
      simp [afterFrame, State.drive, frameBytes, frameDc, frameEvents, frameLatches, lastAfter]
    | some ds =>
      obtain ⟨h1, h2⟩ := latchesWith_then c s.outLo s.outHi k ds
      simp only [frame, commandPart, dataPart, run_cons, run_append, run_nil, perform_line,
        perform_byte]
      rw [run_bytes c ds _ (drive_invLast .dc true (writeByte_invLast c _ k hk)),
        writeByte_spec c _ k hk]
      simp [afterFrame, State.drive, frameBytes, frameDc, frameEvents, frameLatches, lastAfter,
        h1, h2]

/-- A frame keeps `INV_LAST`. -/
theorem afterFrame_invLast (c : Config) (cmd : Option Byte) (data : Option (List Byte)) (s : State)
    (h : InvLast c s) : InvLast c (afterFrame c cmd data s) := by
  intro b hb
  simp only [afterFrame] at hb
  generalize hbs : frameBytes cmd data = bs at hb
  cases bs with
  | nil =>
    rw [← h b (by simpa [lastAfter] using hb)]
    simp [State.bus, State.gpio, afterFrame, hbs, lastAfter, latchesWith]
  | cons v vs =>
    rw [lastAfter_cons _ none] at hb
    exact bus_of_latches c _ b s.outLo s.outHi (by simp only [afterFrame, hbs, hb])
      (by simp only [afterFrame, hbs, hb])

/-! ### The operands -/

/-- R133: the window test is the six conditions. -/
theorem validWindow_iff (width height : Nat) (x0 y0 x1 y1 : Int) :
    validWindow width height x0 y0 x1 y1 = true
      ↔ 0 ≤ x0 ∧ x0 ≤ x1 ∧ x1 ≤ width ∧ 0 ≤ y0 ∧ y0 ≤ y1 ∧ y1 ≤ height := by
  simp [validWindow, and_assoc]

/-- A 16-bit corner is sent as it is (R136). -/
@[simp] theorem coordinate_toNat (v : Half) : coordinate (v.toNat : Int) = v := by
  simp [coordinate]

/-- R43: the rotation index is the mathematical remainder. -/
theorem rotationIndex_eq (r : Int) (q : Fin 4) (h : (q.val : Int) = r % 4) :
    rotationIndex r = q := by
  apply Fin.ext
  simp only [rotationIndex]
  omega

end Sys2Proof.Laws
end

