-- ==== Sys2Proof/Laws/Dispatch.lean ====
section
/-!
SUPPORT. What `exec` and `step` can do, said once.
-/

namespace Sys2Proof.Laws

open Sys2Proof.Machine Sys2Proof.Safety

/-- Every request completes (R89, R161): its actions are run, in order. -/
theorem exec_runs_actions (i : Instr) (s : State) :
    exec i s = .next (run Config.chip (actionsOf Config.chip s.width s.height i) s) := by
  cases i <;> rfl

theorem exec_next_iff (i : Instr) (s t : State) :
    exec i s = .next t ↔ run Config.chip (actionsOf Config.chip s.width s.height i) s = t := by
  simp [exec_runs_actions]

/-- A step leaves an idle block as it is, or performs the one request the decoder reads. -/
theorem step_cases {s t : State} (h : step s = .next t) :
    (s.requests = [] ∧ t = s) ∨
      ∃ w words i rest, s.requests = w :: words ∧ decode w s.payload = .ok (i, rest)
        ∧ exec i (s.awaiting words rest) = .next t := by
  unfold step fetch at h
  cases hr : s.requests with
  | nil => simp only [hr] at h; exact .inl ⟨rfl, by simpa using h.symm⟩
  | cons w words =>
    simp only [hr] at h
    cases hd : decode w s.payload with
    | error e => simp [hd] at h
    | ok v =>
      obtain ⟨i, rest⟩ := v
      simp only [hd] at h
      exact .inr ⟨w, words, i, rest, rfl, hd, h⟩

/-- A property that taking a request and every action keep is kept by a step: the case split over
requests, once. -/
theorem step_keeps (P : State → Prop)
    (ha : ∀ s words stream, P s → P (s.awaiting words stream))
    (hp : ∀ s a, P s → P (perform Config.chip s a)) {s t : State} (h : step s = .next t)
    (hs : P s) : P t := by
  obtain ⟨_, rfl⟩ | ⟨w, words, i, rest, _, _, he⟩ := step_cases h
  · exact hs
  · rw [exec_runs_actions] at he
    injection he with he
    subst he
    exact run_keeps _ P _ (fun s a _ => hp s a) _ (ha s words rest hs)

end Sys2Proof.Laws
end

