-- ==== Sys2Proof/Laws/PerInstr.lean ====
section
/-!
SUPPORT. A statement about every request as syntax, one lemma per constructor: the length a decoder
reads from a request's word is the length of the payload its encoder sends (spec/30_encoding.md R52,
R58).
-/

namespace Sys2Proof.Laws.EncodeLength

/-- R58: "A decoder knows the length of a request from its first 72 bits". -/
def Statement (i : Instr) : Prop :=
  i.wellFormed = true → payloadLength (encode i).1 = (encode i).2.length

theorem writeByte (b : Byte) : Statement (.writeByte b) := fun _ => by
  simp [payloadLength, encode, encodeFields, encodePayload]

theorem writeFrameNone : Statement .writeFrameNone := fun _ => by
  simp [payloadLength, encode, encodeFields, encodePayload, frameFields, bitField]

theorem writeFrameCmd (k : Byte) : Statement (.writeFrameCmd k) := fun _ => by
  simp [payloadLength, encode, encodeFields, encodePayload, frameFields, bitField]

theorem count_frameFields (cmd : Option Byte) (ds : List Byte) (h : fitsCount ds = true) :
    (frameFields cmd (some ds)).count = ds.length := by
  simp only [fitsCount, decide_eq_true_eq] at h
  simp only [ReqFields.count, frameFields, BitVec.toNat_ofNat]
  omega

theorem writeFrameData (ds : List Byte) : Statement (.writeFrameData ds) := fun h => by
  simp [payloadLength, encode, encodeFields, encodePayload, count_frameFields none ds h]
  simp [frameFields, bitField]

theorem writeFrameBoth (k : Byte) (ds : List Byte) : Statement (.writeFrameBoth k ds) := fun h => by
  simp [payloadLength, encode, encodeFields, encodePayload, count_frameFields (some k) ds h]
  simp [frameFields, bitField]

theorem hardReset : Statement .hardReset := fun _ => by
  simp [payloadLength, encode, encodeFields, encodePayload]

theorem softReset : Statement .softReset := fun _ => by
  simp [payloadLength, encode, encodeFields, encodePayload]

theorem sleep (on : Bit) : Statement (.sleep on) := fun _ => by
  simp [payloadLength, encode, encodeFields, encodePayload]

theorem invert (on : Bit) : Statement (.invert on) := fun _ => by
  simp [payloadLength, encode, encodeFields, encodePayload]

theorem colorMode (m : Byte) : Statement (.colorMode m) := fun _ => by
  simp [payloadLength, encode, encodeFields, encodePayload]

theorem orient (r : Int) : Statement (.orient r) := fun _ => by
  simp [payloadLength, encode, encodeFields, encodePayload]

theorem normalOn : Statement .normalOn := fun _ => by
  simp [payloadLength, encode, encodeFields, encodePayload]

theorem displayOn : Statement .displayOn := fun _ => by
  simp [payloadLength, encode, encodeFields, encodePayload]

theorem backlight (on : Bit) : Statement (.backlight on) := fun _ => by
  simp [payloadLength, encode, encodeFields, encodePayload]

theorem init (r : Int) : Statement (.init r) := fun _ => by
  simp [payloadLength, encode, encodeFields, encodePayload]

theorem caset (xs xe : Half) : Statement (.caset xs xe) := fun _ => by
  simp [payloadLength, encode, encodeFields, encodePayload]

theorem raset (ys ye : Half) : Statement (.raset ys ye) := fun _ => by
  simp [payloadLength, encode, encodeFields, encodePayload]

theorem ramWr : Statement .ramWr := fun _ => by
  simp [payloadLength, encode, encodeFields, encodePayload]

theorem setWindow (x0 y0 x1 y1 : Int) : Statement (.setWindow x0 y0 x1 y1) := fun _ => by
  simp [payloadLength, encode, encodeFields, encodePayload]

theorem vscrDef (tfa vsa bfa : Half) : Statement (.vscrDef tfa vsa bfa) := fun _ => by
  simp [payloadLength, encode, encodeFields, encodePayload]

theorem vscSad (off : Half) : Statement (.vscSad off) := fun _ => by
  simp [payloadLength, encode, encodeFields, encodePayload]

end Sys2Proof.Laws.EncodeLength
end

