-- ==== Sys2Proof/Laws/Receiver.lean ====
section
/-!
SUPPORT. What the controller's observer hears of a frame and of a reset pulse, said once.
-/

namespace Sys2Proof.Laws

open Sys2Proof.Machine Sys2Proof.Safety

@[simp] theorem signals_strobe (es : List Event) (l : Latch) (ls : List Latch) :
    signals (.strobe :: es) (l :: ls) = .offered l :: signals es ls := rfl

@[simp] theorem signals_write (g : GpioReg) (w : Word) (es : List Event) (ls : List Latch) :
    signals (.write g w :: es) ls = signals es ls := by cases ls <;> rfl

@[simp] theorem signals_delay (t : Nat) (es : List Event) (ls : List Latch) :
    signals (.delay t :: es) ls = signals es ls := by cases ls <;> rfl

@[simp] theorem signals_rst (v : Bit) (es : List Event) (ls : List Latch) :
    signals (.line .rst v :: es) ls = .resetLine :: signals es ls := by cases ls <;> rfl

@[simp] theorem signals_cs (v : Bit) (es : List Event) (ls : List Latch) :
    signals (.line .cs v :: es) ls = signals es ls := by cases ls <;> rfl

@[simp] theorem signals_dc (v : Bit) (es : List Event) (ls : List Latch) :
    signals (.line .dc v :: es) ls = signals es ls := by cases ls <;> rfl

@[simp] theorem signals_bl (v : Bit) (es : List Event) (ls : List Latch) :
    signals (.line .bl v :: es) ls = signals es ls := by cases ls <;> rfl

/-- A byte is one signal, whichever branch `WRITEBYTE` takes. -/
@[simp] theorem signals_byte (c : Config) (last : Option Byte) (v : Byte) (es : List Event)
    (l : Latch) (ls : List Latch) :
    signals (byteEvents c last v ++ es) (l :: ls) = .offered l :: signals es ls := by
  unfold byteEvents
  split <;> simp

/-- The bytes of a frame part are one signal each, in order. -/
theorem signals_bytes (c : Config) (last : Option Byte) (vs : List Byte) (f : Byte → Latch)
    (es : List Event) (ls : List Latch) :
    signals (bytesEvents c last vs ++ es) (vs.map f ++ ls)
      = vs.map (fun v => .offered (f v)) ++ signals es ls := by
  induction vs generalizing last with
  | nil => rfl
  | cons v vs ih => simp [bytesEvents, ih]

/-- A frame is heard as the latches it offers (R87). -/
theorem signals_frame (c : Config) (last : Option Byte) (cmd : Option Byte)
    (data : Option (List Byte)) (es : List Event) (ls : List Latch) :
    signals (frameEvents c last cmd data ++ es) (frameLatches cmd data ++ ls)
      = (frameLatches cmd data).map .offered ++ signals es ls := by
  cases cmd <;> cases data <;>
    simp [frameEvents, frameLatches, signals_bytes, List.map_map, Function.comp_def]

@[simp] theorem follow_append (c : Config) (width height : Nat) (r : Receiver)
    (ss ts : List Signal) :
    r.follow c width height (ss ++ ts) = (r.follow c width height ss).follow c width height ts :=
  List.foldl_append

/-- Over strobes alone the observer is the one of R138. -/
@[simp] theorem follow_offered (c : Config) (width height : Nat) (r : Receiver) (ls : List Latch) :
    r.follow c width height (ls.map .offered) = r.watch c width height ls := by
  simp only [Receiver.follow, Receiver.watch, List.foldl_map]
  rfl

/-- What the observer hears of a state with these events and latches more. -/
theorem between_of_appended (c : Config) (width height : Nat) (r : Receiver) {s t : State}
    {es : List Event} {ls : List Latch} (he : t.trace = s.trace ++ es)
    (hl : t.latched = s.latched ++ ls) :
    r.between c width height s t = r.follow c width height (signals es ls) := by
  simp [Receiver.between, he, hl]

/-- What the observer knows after one frame. -/
theorem between_frame (c : Config) (width height : Nat) (r : Receiver) (cmd : Option Byte)
    (data : Option (List Byte)) (s : State) :
    r.between c width height s (afterFrame c cmd data s)
      = r.watch c width height (frameLatches cmd data) := by
  rw [between_of_appended c width height r (es := frameEvents c s.last cmd data)
    (ls := frameLatches cmd data) rfl rfl, ← follow_offered]
  simpa [signals] using congrArg (r.follow c width height)
    (signals_frame c s.last cmd data [] [])

/-! ### Runs of actions, one after another -/

/-- Signals of events one after the other, when the first latches are those of the first strobes. -/
theorem signals_append (es fs : List Event) (ls ms : List Latch)
    (h : ls.length = strobeCount es) :
    signals (es ++ fs) (ls ++ ms) = signals es ls ++ signals fs ms := by
  induction es generalizing ls with
  | nil => simp_all [strobeCount, signals]
  | cons e es ih =>
    cases e with
    | strobe =>
      cases ls with
      | nil => simp [strobeCount] at h
      | cons l ls =>
        have : ls.length = strobeCount es := by simpa [strobeCount] using h
        simp [ih ls this]
    | write g w => simpa using ih ls (by simpa [strobeCount] using h)
    | delay t => simpa using ih ls (by simpa [strobeCount] using h)
    | line l v =>
      have h' : ls.length = strobeCount es := by simpa [strobeCount] using h
      cases l <;> simpa using ih ls h'

/-- What `t` has seen beyond `s`: more events, and one latched entry for each strobe among them. -/
def Extends (s t : State) : Prop :=
  ∃ es ls, t.trace = s.trace ++ es ∧ t.latched = s.latched ++ ls ∧ ls.length = strobeCount es

theorem Extends.refl (s : State) : Extends s s := ⟨[], [], by simp [strobeCount]⟩

theorem Extends.trans {s t u : State} (h : Extends s t) (h' : Extends t u) : Extends s u := by
  obtain ⟨es, ls, h1, h2, h3⟩ := h
  obtain ⟨es', ls', h1', h2', h3'⟩ := h'
  refine ⟨es ++ es', ls ++ ls', by simp [h1', h1], by simp [h2', h2], ?_⟩
  simp [strobeCount, h3, h3']

theorem perform_extends (c : Config) (s : State) (a : Act) : Extends s (perform c s a) := by
  cases a with
  | line l v => exact ⟨[.line l v], [], by cases l <;> simp [State.drive, strobeCount]⟩
  | byte b =>
    obtain ⟨v, hv⟩ := writeByte_latched c s b
    refine ⟨byteEvents c s.last b, _, by simp, hv, ?_⟩
    unfold byteEvents
    split <;> simp [strobeCount]
  | delay t => exact ⟨[.delay t], [], by simp [strobeCount]⟩
  | turn q => exact ⟨[], [], by simp [strobeCount]⟩

theorem run_extends (c : Config) (as : List Act) (s : State) : Extends s (run c as s) :=
  run_keeps c (Extends s) as (fun t a _ h => h.trans (perform_extends c t a)) s (.refl s)

/-- The observer of a longer run is the observer of its parts in turn. -/
theorem between_trans (c : Config) (width height : Nat) (r : Receiver) {s t u : State}
    (h : Extends s t) (h' : Extends t u) :
    r.between c width height s u
      = (r.between c width height s t).between c width height t u := by
  obtain ⟨es, ls, h1, h2, h3⟩ := h
  obtain ⟨es', ls', h1', h2', _⟩ := h'
  rw [between_of_appended c width height r h1 h2,
    between_of_appended c width height _ h1' h2',
    between_of_appended c width height r (es := es ++ es') (ls := ls ++ ls') (by simp [h1', h1])
      (by simp [h2', h2]),
    signals_append es es' ls ls' h3, follow_append]

/-- What the observer knows after a run of actions. -/
def heardOf (c : Config) (width height : Nat) (as : List Act) (s : State) (r : Receiver) :
    Receiver :=
  r.between c width height s (run c as s)

theorem heardOf_append (c : Config) (width height : Nat) (as bs : List Act) (s : State)
    (r : Receiver) :
    heardOf c width height (as ++ bs) s r
      = heardOf c width height bs (run c as s) (heardOf c width height as s r) := by
  unfold heardOf
  rw [run_append]
  exact between_trans c width height r (run_extends c as s) (run_extends c bs _)

/-- A pulse on the reset line leaves a controller that has been reset (R195). -/
theorem heardOf_hardReset (c : Config) (width height : Nat) (s : State) (r : Receiver) :
    heardOf c width height hardResetActions s r = .afterReset := by
  unfold heardOf
  rw [between_of_appended c width height r (ls := []) (es :=
    [.line .rst false, .delay Config.tRstLow, .line .rst true, .delay Config.tRstHigh,
      .line .rst false, .delay Config.tRstSettle])
    (by simp [hardResetActions, State.drive]) (by simp [hardResetActions, State.drive])]
  simp [signals, Receiver.follow, Receiver.hear]

theorem heardOf_delay (c : Config) (width height t : Nat) (s : State) (r : Receiver) :
    heardOf c width height [.delay t] s r = r := by
  unfold heardOf
  rw [between_of_appended c width height r (es := [.delay t]) (ls := []) (by simp) (by simp)]
  simp [signals, Receiver.follow]

theorem heardOf_backlight (c : Config) (width height : Nat) (on : Bit) (s : State) (r : Receiver) :
    heardOf c width height (backlightActions on) s r = r := by
  unfold heardOf
  rw [between_of_appended c width height r (es := [.line .bl on]) (ls := [])
    (by simp [backlightActions, State.drive]) (by simp [backlightActions, State.drive])]
  simp [signals, Receiver.follow]

/-- A frame is heard as its bytes (R87). -/
theorem heardOf_frame (c : Config) (width height : Nat) (cmd : Option Byte)
    (data : Option (List Byte)) (s : State) (r : Receiver) (h : InvLast c s) :
    heardOf c width height (frame cmd data) s r
      = r.watch c width height (frameLatches cmd data) := by
  unfold heardOf
  rw [run_frame c cmd data s h, between_frame]

/-- The state writes of `ORIENT` are not heard. -/
theorem heardOf_turn (c : Config) (width height : Nat) (q : Fin 4) (s : State) (r : Receiver) :
    heardOf c width height [.turn q] s r = r := by
  simp [heardOf, Receiver.between, signals, Receiver.follow]

/-! ### Commands, when the codes differ -/

/-- A command frame is the command. -/
theorem watch_command (c : Config) (width height : Nat) (r : Receiver) (k : Byte) :
    r.watch c width height (frameLatches (some k) none) = r.command c k := by
  simp [Receiver.watch, frameLatches, Receiver.observe]

/-- A frame is its command and then its parameters in order. -/
theorem watch_command_data (c : Config) (width height : Nat) (r : Receiver) (k : Byte)
    (ds : List Byte) :
    r.watch c width height (frameLatches (some k) (some ds))
      = ds.foldl (Receiver.data width height) (r.command c k) := by
  simp [Receiver.watch, frameLatches, Receiver.observe, List.foldl_map]

/-- What a command means, when every command has a code of its own. -/
theorem command_of_code (c : Config) (r : Receiver) (h : CommandCodesDiffer c) :
    r.command c c.cmdSwreset = .afterReset ∧
    r.command c c.cmdMadctl
      = { r with addressing := none, pixels := [], phase := .params .addressing [] } ∧
    r.command c c.cmdColmod = { r with colorMode := none, phase := .params .colorMode [] } ∧
    r.command c c.cmdSlpin = .fallAsleep ∧
    r.command c c.cmdSlpout = r.wake ∧
    r.command c c.cmdInvon = { r with inverted := some true, phase := .quiet } ∧
    r.command c c.cmdInvoff = { r with inverted := some false, phase := .quiet } ∧
    r.command c c.cmdNoron = { r with phase := .quiet } ∧
    r.command c c.cmdDispon = { r with displaying := some true, phase := .quiet } ∧
    r.command c c.cmdVscrdef = { r with scrollArea := none, phase := .params .scrollArea [] } ∧
    r.command c c.cmdVscsad = { r with scrollStart := none, phase := .params .scrollStart [] } := by
  have h' : (commandCodes c).Pairwise fun a b => b ≠ a := List.Pairwise.imp Ne.symm h
  simp only [commandCodes, CommandCodesDiffer, List.nodup_cons, List.pairwise_cons, List.mem_cons,
    List.not_mem_nil, or_false, not_or, forall_eq_or_imp, forall_eq, ne_eq] at h h'
  simp only [Receiver.command, h, h', if_true, if_false, and_self]

end Sys2Proof.Laws
end

