-- ==== Sys2Proof/Tests/Slice0.lean ====
section
/-!
SUPPORT. Tests. Expected values are those of spec/95_test_vectors.md (V<n>, P<n>) and of the worked
examples of the rules, under `CFG_REF`; words are written out from spec/30_encoding.md R51 and R53.
The last part shows, for every obligation with hypotheses, a state and operands that meet them all.
-/

namespace Sys2Proof.Tests

open Sys2Proof.Machine Sys2Proof.Safety

/-! ### WellFormed smoke: an ill-formed term for each check -/

theorem test_illformed_orient : (Instr.orient 32768).wellFormed = false := by decide
theorem test_illformed_init : (Instr.init (-32769)).wellFormed = false := by decide
theorem test_illformed_window_x0 : (Instr.setWindow 32768 0 0 0).wellFormed = false := by decide
theorem test_illformed_window_y0 : (Instr.setWindow 0 (-32769) 0 0).wellFormed = false := by decide
theorem test_illformed_window_x1 : (Instr.setWindow 0 0 65535 0).wellFormed = false := by decide
theorem test_illformed_window_y1 : (Instr.setWindow 0 0 0 40000).wellFormed = false := by decide
/-- A data part one byte too long for the count. -/
theorem test_illformed_data (ds : List Byte) (h : ds.length = 2 ^ 32) :
    (Instr.writeFrameData ds).wellFormed = false := by
  simp only [Instr.wellFormed, fitsCount, h, Nat.lt_irrefl, decide_false]
theorem test_illformed_both (k : Byte) (ds : List Byte) (h : ds.length = 2 ^ 32) :
    (Instr.writeFrameBoth k ds).wellFormed = false := by
  simp only [Instr.wellFormed, fitsCount, h, Nat.lt_irrefl, decide_false]

/-! ### One word of every row (R51, R53) -/

/-- V5. -/
theorem test_decode_writeByte :
    decode 0x01002A000000000000 [] = .ok (.writeByte 0x2A, []) := by decide
/-- V8. -/
theorem test_decode_writeFrameNone :
    decode 0x020000000000000000 [] = .ok (.writeFrameNone, []) := by decide
/-- V9. -/
theorem test_decode_writeFrameCmd :
    decode 0x020111000000000000 [] = .ok (.writeFrameCmd 0x11, []) := by decide
/-- P2; the byte after the payload stays on the stream (R52). -/
theorem test_decode_writeFrameData :
    decode 0x020000000100000002 [0xF8, 0x00, 0x55]
      = .ok (.writeFrameData [0xF8, 0x00], [0x55]) := by decide
/-- V10. -/
theorem test_decode_writeFrameBoth :
    decode 0x02012C000100000002 [0x2C, 0x00] = .ok (.writeFrameBoth 0x2C [0x2C, 0x00], []) := by
  decide
theorem test_decode_hardReset : decode 0x100000000000000000 [] = .ok (.hardReset, []) := by decide
theorem test_decode_softReset : decode 0x110000000000000000 [] = .ok (.softReset, []) := by decide
theorem test_decode_sleep : decode 0x120001000000000000 [] = .ok (.sleep true, []) := by decide
theorem test_decode_invert : decode 0x130000000000000000 [] = .ok (.invert false, []) := by decide
/-- V16. -/
theorem test_decode_colorMode :
    decode 0x140055000000000000 [] = .ok (.colorMode 0x55, []) := by decide
/-- V19: the sign of the index. -/
theorem test_decode_orient :
    decode 0x158000000000000000 [] = .ok (.orient (-32768), []) := by decide
theorem test_decode_normalOn : decode 0x160000000000000000 [] = .ok (.normalOn, []) := by decide
theorem test_decode_displayOn : decode 0x170000000000000000 [] = .ok (.displayOn, []) := by decide
theorem test_decode_backlight : decode 0x180001000000000000 [] = .ok (.backlight true, []) := by
  decide
/-- P1, the variant. -/
theorem test_decode_init : decode 0x19FFFF000000000000 [] = .ok (.init (-1), []) := by decide
/-- V23. -/
theorem test_decode_caset : decode 0x200005010500000000 [] = .ok (.caset 5 261, []) := by decide
/-- V24. -/
theorem test_decode_raset : decode 0x210007000700000000 [] = .ok (.raset 7 7, []) := by decide
theorem test_decode_ramWr : decode 0x220000000000000000 [] = .ok (.ramWr, []) := by decide
/-- V39. -/
theorem test_decode_setWindow :
    decode 0x23FFFF000000050005 [] = .ok (.setWindow (-1) 0 5 5, []) := by decide
/-- V36. -/
theorem test_decode_vscrDef :
    decode 0x30001401B800140000 [] = .ok (.vscrDef 20 440 20, []) := by decide
/-- V37. -/
theorem test_decode_vscSad : decode 0x31012C000000000000 [] = .ok (.vscSad 300, []) := by decide

/-- V12: reserved words, by their `op`. -/
theorem test_reserved_ops :
    decode 0x000000000000000000 [] = .error .reservedOp
      ∧ decode 0x1A0000000000000000 [] = .error .reservedOp
      ∧ decode 0x240000000000000000 [] = .error .reservedOp
      ∧ decode 0xFF0000000000000000 [] = .error .reservedOp := by decide
/-- V12: reserved words, by a 1 in a must-be-zero bit. -/
theorem test_reserved_bits :
    decode 0x010100000000000000 [] = .error .reservedBits
      ∧ decode 0x100001000000000000 [] = .error .reservedBits
      ∧ decode 0x120002000000000000 [] = .error .reservedBits
      ∧ decode 0x02002A000000000000 [] = .error .reservedBits
      ∧ decode 0x020000000000000003 [] = .error .reservedBits
      ∧ decode 0x200005000500000001 [] = .error .reservedBits := by decide
/-- V39: the count is `c * 65536 + d`. -/
theorem test_payload_count : payloadLength 0x020000000100010000 = 65536 := by decide
/-- V10 and V36, encoded. -/
theorem test_encode :
    encode (.writeFrameBoth 0x2C [0x2C, 0x00]) = (0x02012C000100000002, [0x2C, 0x00])
      ∧ encode (.vscrDef 20 440 20) = (0x30001401B800140000, [])
      ∧ encode (.orient (-2)) = (0x15FFFE000000000000, []) := by decide

/-! ### The mask table (R75, V1, V2) -/

theorem test_mask_pinmapA :
    maskFor Config.ref 0x2A = ⟨0x2A, 0, 0xD5, 0⟩ ∧ maskFor Config.ref 0 = ⟨0, 0, 0xFF, 0⟩ := by
  decide
theorem test_mask_pinmapB :
    maskFor Config.refB 0x2A = ⟨0x00020100, 0x00004000, 0x00058208, 0⟩
      ∧ maskFor Config.refB 0xFF = ⟨0x00078308, 0x00004000, 0, 0⟩ := by decide

/-! ### The bus writer and the operations, from the reset state with known launch levels -/

/-- A reset state with latches, DC and RST at 0. -/
def start : State := .resetWith ⟨0, 0, false, false⟩

/-- `byte(v)` of 95_test_vectors.md under `PINMAP_A`. -/
def byteA (v : Word) : List Event :=
  [.write .setLo v, .write .setHi 0, .write .clrLo (v ^^^ 0xFF), .write .clrHi 0, .strobe]

/-- Requests performed under `CFG_REF` from `start`. -/
def after (is : List Instr) : State := runRequests Config.ref is start

/-- V5. -/
theorem test_writeByte_twice :
    (after [.writeByte 0x2A, .writeByte 0x2A]).trace = byteA 0x2A ++ [.strobe]
      ∧ (after [.writeByte 0x2A]).outLo = 0x2A := by decide
/-- V7: `PINMAP_B`, the bits outside the data pins are kept. -/
theorem test_writeByte_keeps_other_pins :
    (runRequests Config.refB [.writeByte 0x00]
        (.resetWith ⟨0xDEADBEEF, 0xCAFEF00D, true, false⟩)).outLo = 0xDEA83CE7
      ∧ (runRequests Config.refB [.writeByte 0x00]
        (.resetWith ⟨0xDEADBEEF, 0xCAFEF00D, true, false⟩)).outHi = 0xCAFEB00D := by decide
/-- V8. -/
theorem test_frame_no_parts :
    (after [.writeFrameNone]).trace = [.line .cs false, .line .cs true]
      ∧ (after [.writeFrameData []]).trace
        = [.line .cs false, .line .dc true, .line .cs true] := by decide
/-- V9: the same command again is only strobed. -/
theorem test_frame_command_again :
    (after [.writeFrameCmd 0x11, .writeFrameCmd 0x11]).trace
      = [.line .cs false, .line .dc false] ++ byteA 0x11 ++ [.line .cs true]
        ++ [.line .cs false, .line .dc false, .strobe, .line .cs true] := by decide
/-- V10. -/
theorem test_frame_both :
    (after [.writeFrameBoth 0x2C [0x2C, 0x00]]).trace
      = [.line .cs false, .line .dc false] ++ byteA 0x2C ++ [.line .dc true, .strobe]
        ++ byteA 0x00 ++ [.line .cs true] := by decide
/-- V14. -/
theorem test_hardReset :
    (after [.hardReset]).trace
      = [ .line .rst false, .delay 5, .line .rst true, .delay 20, .line .rst false, .delay 150 ] := by
  decide
/-- V15. -/
theorem test_softReset : (after [.softReset]).latched = [⟨false, false, 0x01⟩] := by decide
theorem test_sleep :
    (after [.sleep true, .sleep false]).latched
      = [⟨false, false, 0x10⟩, ⟨false, false, 0x11⟩] := by decide
theorem test_invert :
    (after [.invert true, .invert false]).latched
      = [⟨false, false, 0x21⟩, ⟨false, false, 0x20⟩] := by decide
/-- V16: a parameter equal to the command code is skipped, with DC high. -/
theorem test_colorMode_skips :
    (after [.colorMode 0x3A]).trace
      = [.line .cs false, .line .dc false] ++ byteA 0x3A
        ++ [.line .dc true, .strobe, .line .cs true] := by decide
/-- V19. -/
theorem test_orient_negative :
    (after [.orient (-1)]).orientation = 3 ∧ (after [.orient (-1)]).width = 480
      ∧ (after [.orient (-1)]).latched = [⟨false, false, 0x36⟩, ⟨false, true, 0xE8⟩] := by decide
/-- V21: set, not exchanged. -/
theorem test_orient_twice :
    (after [.orient 1, .orient 1]).width = 480 ∧ (after [.orient 1, .orient 1]).height = 320 := by
  decide
theorem test_normalOn : (after [.normalOn]).latched = [⟨false, false, 0x13⟩] := by decide
theorem test_displayOn : (after [.displayOn]).latched = [⟨false, false, 0x29⟩] := by decide
/-- V17. -/
theorem test_backlight :
    (after [.backlight true, .backlight true]).trace = [.line .bl true, .line .bl true]
      ∧ (after [.backlight true]).latched = [] := by decide
/-- P1. -/
theorem test_init_latched :
    (after [.init 0]).latched
      = [ ⟨false, false, 0x11⟩, ⟨false, false, 0x3A⟩, ⟨false, true, 0x55⟩, ⟨false, false, 0x36⟩,
          ⟨false, true, 0x48⟩, ⟨false, false, 0x21⟩, ⟨false, false, 0x13⟩,
          ⟨false, false, 0x29⟩ ] := by decide
/-- P1: ten delays, the end state. -/
theorem test_init_end :
    delayCount (after [.init 0]).trace = 10 ∧ (after [.init 0]).bl = true
      ∧ (after [.init 0]).rst = false ∧ (after [.init 0]).outLo = 0x29
      ∧ (after [.init (-1)]).width = 480 := by decide
/-- V23: sent as given, also when the first column is beyond the last. -/
theorem test_caset :
    (after [.caset 261 5]).latched
      = [ ⟨false, false, 0x2A⟩, ⟨false, true, 0x01⟩, ⟨false, true, 0x05⟩, ⟨false, true, 0x00⟩,
          ⟨false, true, 0x05⟩ ] := by decide
/-- V24. -/
theorem test_raset_ramWr :
    (after [.raset 7 7, .ramWr]).latched
      = [ ⟨false, false, 0x2B⟩, ⟨false, true, 0x00⟩, ⟨false, true, 0x07⟩, ⟨false, true, 0x00⟩,
          ⟨false, true, 0x07⟩, ⟨false, false, 0x2C⟩ ] := by decide
/-- V25: the edge that is accepted. -/
theorem test_setWindow_edge :
    (after [.setWindow 0 0 320 480]).latched
      = [ ⟨false, false, 0x2A⟩, ⟨false, true, 0x00⟩, ⟨false, true, 0x00⟩, ⟨false, true, 0x01⟩,
          ⟨false, true, 0x40⟩, ⟨false, false, 0x2B⟩, ⟨false, true, 0x00⟩, ⟨false, true, 0x00⟩,
          ⟨false, true, 0x01⟩, ⟨false, true, 0xE0⟩, ⟨false, false, 0x2C⟩ ] := by decide
/-- V25, V27: the windows that are skipped change nothing. -/
theorem test_setWindow_skipped :
    after [.setWindow 0 0 321 480] = start ∧ after [.setWindow 0 0 320 481] = start
      ∧ after [.setWindow (-1) 0 5 5] = start ∧ after [.setWindow 6 0 5 5] = start
      ∧ after [.setWindow 0 6 5 5] = start ∧ after [.setWindow 0 0 (-1) (-1)] = start := by decide
/-- V36. -/
theorem test_vscrDef :
    (after [.vscrDef 20 440 20]).latched
      = [ ⟨false, false, 0x33⟩, ⟨false, true, 0x00⟩, ⟨false, true, 0x14⟩, ⟨false, true, 0x01⟩,
          ⟨false, true, 0xB8⟩, ⟨false, true, 0x00⟩, ⟨false, true, 0x14⟩ ] := by decide
/-- V37. -/
theorem test_vscSad :
    (after [.vscSad 300]).latched
      = [⟨false, false, 0x37⟩, ⟨false, true, 0x01⟩, ⟨false, true, 0x2C⟩] := by decide

/-! ### The host layer and the receiver contract -/

/-- V28. -/
theorem test_color565 :
    color565 0x12 0x34 0x56 = 0x11AA ∧ color565 255 0 0 = 0xF800 ∧ color565 7 3 7 = 0 := by decide
/-- P2: the pixel, then the position beyond the last row. -/
theorem test_pixel_lands :
    (Receiver.start.watch Config.ref 320 480 (after (pixelRequests 5 7 0xF800)).latched)
      = { Receiver.start with
          col := some (5, 5), row := some (7, 7), phase := .writing 5 8 none,
          pixels := [((5, 7), 0xF800)] } := by decide
/-- U5, the model's choice (log 25): a data byte with no command pending loses the window too. -/
theorem test_stray_data_loses_window :
    Receiver.start.watch Config.ref 320 480
        (after [.setWindow 5 7 5 7, .caset 5 5, .writeFrameData [0xF8]]).latched
      = .loseAll := by decide
/-- The model's choice (log 32): a column record cut short leaves the columns unknown. -/
theorem test_cut_record :
    (Receiver.start.watch Config.ref 320 480
        (after [.setWindow 5 7 5 7, .writeFrameBoth 0x2A [0, 6], .ramWr]).latched)
      = { Receiver.start with row := some (7, 7), phase := .lost } := by decide
/-- R195: the window, the orientation and the scroll definition are gone after either reset. -/
theorem test_controller_hardReset :
    Receiver.start.between Config.ref 480 320 start
        (after [.orient 1, .caset 5 6, .vscrDef 20 440 20, .hardReset]) = .afterReset := by decide
theorem test_controller_softReset :
    Receiver.start.between Config.ref 480 320 start
        (after [.orient 1, .caset 5 6, .vscrDef 20 440 20, .softReset]) = .afterReset := by decide
/-- R24: what the controller has been told. -/
theorem test_controller_told :
    Receiver.start.between Config.ref 480 320 start
        (after [.sleep true, .orient 1, .vscrDef 20 440 20, .vscSad 300, .colorMode 0x55])
      = { Receiver.start with
          addressing := some 0x28, colorMode := some 0x55, asleep := some true,
          scrollArea := some (20, 440, 20), scrollStart := some 300 } := by decide
/-- U2: parts that add up to 481, and a start one past the area. -/
theorem test_scroll_inconsistent :
    Receiver.start.watch Config.ref 320 480 (after [.vscrDef 20 440 21]).latched = .loseAll
      ∧ Receiver.start.watch Config.ref 320 480
          (after [.vscrDef 20 440 20, .vscSad 460]).latched = .loseAll := by
  decide
/-- U2, the model's choice (log 35): an area that leaves the start out. -/
theorem test_scroll_start_left_out :
    Receiver.start.watch Config.ref 320 480
        (after [.vscrDef 20 440 20, .vscSad 459, .vscrDef 0 459 21]).latched = .loseAll := by decide
/-- R193, the model's choice (log 25): a data byte after a command without parameters. -/
theorem test_data_after_mode_command :
    Receiver.start.watch Config.ref 320 480
        (after [.caset 5 6, .invert true, .writeFrameData [1]]).latched = .loseAll := by decide
/-- V35: the window is skipped, the data frame is not. -/
theorem test_pixel_outside :
    (after (pixelRequests 400 10 0xFFFF)).trace
      = [.line .cs false, .line .dc true] ++ byteA 0xFF ++ [.strobe, .line .cs true] := by decide
/-- P3: the pixels of a 2 by 2 fill, oldest last. -/
theorem test_fillRect_order :
    (Receiver.start.watch Config.ref 320 480 (after (fillRectRequests 0 0 2 2 0x2C2C)).latched).pixels
      = [((1, 1), 0x2C2C), ((0, 1), 0x2C2C), ((1, 0), 0x2C2C), ((0, 0), 0x2C2C)] := by decide

/-! ### Steps from reset -/

/-- A table word is the first request after reset, and it runs. -/
theorem test_step_runs_table_word :
    decodeTableWord 72 0x100000000000000000 = some .hardReset
      ∧ step (State.reset.withFetchWord 72 0x100000000000000000) = exec .hardReset State.reset := by
  refine ⟨by decide, rfl⟩
/-- A reserved word is refused. -/
theorem test_step_refuses :
    step (State.reset.withFetchWord 72 0x1A0000000000000000) = .refused .reservedOp := rfl
/-- `WRITEFRAME` with two payload bytes: they are the zeros put with the word, and are consumed. -/
theorem test_step_takes_payload :
    step (State.reset.withFetchWord 72 0x020000000100000002)
      = exec (.writeFrameData [0, 0]) State.reset := rfl

/-! ### Witnesses: the hypotheses of the obligations can be met -/

/-- A state in which a byte has been written, under the machine's own configuration. -/
def busy : State := State.reset.writeByte Config.chip 0x2A

/-- `busy` with a request pending. -/
def pending : State := busy.withFetchWord 72 0x100000000000000000

theorem reset_invLast : InvLast Config.chip State.reset := by
  intro b hb
  cases hb

/-- `INV_LAST` with a byte recorded: the premise of the frame, protocol, window and scroll statements,
of `SkippingRepeatedBytesIsInvisible` and of `WriteBytePutsItsByteOnTheBus`. -/
theorem witness_invLast : InvLast Config.chip busy ∧ busy.last = some 0x2A :=
  ⟨Laws.writeByte_invLast _ _ _ reset_invLast, by simp [busy]⟩

theorem busy_trace : busy.trace = byteEvents Config.chip none 0x2A := by
  simp [busy, State.reset, State.resetWith]

/-- `StepKeepsBlockInvariant`, `WiresAreTheReplayOfTheTrace`, `OtherGpiosAreNeverChanged`: a state that
meets the invariant, and a step from it. -/
theorem witness_blockInv : BlockInv Config.chip pending ∧ ∃ t, step pending = .next t := by
  refine ⟨⟨Laws.invLast_congr witness_invLast.1 rfl rfl rfl, ?_, ?_, ?_, ?_⟩, _, rfl⟩
  · constructor <;> rfl
  · rfl
  · change lowHighPairs (lineLevels .cs busy.trace) = true
    rw [busy_trace]
    rfl
  · change busy.latched.length = strobeCount busy.trace
    rw [busy_trace]
    rfl

/-- `StepRunsTheDecodedRequest`: a request pending that decodes. -/
theorem witness_step :
    pending.requests = [0x100000000000000000]
      ∧ decode 0x100000000000000000 pending.payload = .ok (.hardReset, []) := ⟨rfl, rfl⟩
/-- `IdleStepChangesNothing`. -/
theorem witness_idle : busy.requests = [] := rfl
/-- `ReservedWordIsRefused`: a word that selects no row, for its `op` and for its bits. -/
theorem witness_reserved :
    (∀ row ∈ opcodeTable, row.selects 0x1A0000000000000000 = false)
      ∧ (0x1A : Byte) ∉ knownOps
      ∧ (∀ row ∈ opcodeTable, row.selects 0x010100000000000000 = false)
      ∧ (0x01 : Byte) ∈ knownOps := by decide
/-- `ShortPayloadIsRefused`: a word that counts two bytes, and a stream of one. -/
theorem witness_short :
    (∃ row ∈ opcodeTable, row.selects 0x020000000100000002 = true)
      ∧ [0xF8].length < payloadLength 0x020000000100000002 := by decide
/-- `DecoderReadsTheOpcodeTable`, `EncodeOfDecodeIsTheWord`, `DecoderConsumesExactlyThePayload`: what
decodes, and a row selected with its payload there. -/
theorem witness_decodes :
    decode 0x020000000100000002 [1, 2, 3] = .ok (.writeFrameData [1, 2], [3])
      ∧ (∃ row ∈ opcodeTable, row.selects 0x020000000100000002 = true)
      ∧ payloadLength 0x020000000100000002 ≤ [1, 2, 3].length := by decide
/-- `DecodeOfEncodeIsTheRequest`: the signed operands at the ends of their range. -/
theorem witness_wellFormed :
    (Instr.setWindow (-32768) 32767 0 (-1)).wellFormed = true
      ∧ (Instr.orient 32767).wellFormed = true
      ∧ (Instr.writeFrameBoth 0 []).wellFormed = true := by decide
/-- `WriteByteHasTwoBranches`: a state for each branch. -/
theorem witness_writeByte :
    busy.last = some 0x2A ∧ busy.last ≠ some 0x2B ∧ State.reset.last ≠ some 0 := by
  refine ⟨by simp [busy], by simp [busy], by simp [State.reset, State.resetWith]⟩
/-- `ChipSelectBracketsEveryFrame`, `OnlyHardResetAndInitDelay`, `OnlyTheNamedRequestsWriteEachField`,
`LastByteIsNeverForgotten`, `LastByteCarriesAcrossFrames`: requests answer a next state from a state
with a byte recorded, and there are requests of each kind their clauses name. -/
theorem witness_exec :
    busy.last ≠ none ∧ (∃ t, exec (frameRequest (some 1) (some [2])) busy = .next t)
      ∧ (∃ t, exec .hardReset busy = .next t) ∧ (∃ t, exec (.backlight true) busy = .next t)
      ∧ (∃ t, exec (.writeByte 1) busy = .next t) ∧ (∃ t, exec (.init 0) busy = .next t)
      ∧ (∃ t, execAll [.writeFrameCmd 1, .hardReset, .backlight true] busy = .next t) :=
  ⟨by simp [busy], ⟨_, rfl⟩, ⟨_, rfl⟩, ⟨_, rfl⟩, ⟨_, rfl⟩, ⟨_, rfl⟩, ⟨_, rfl⟩⟩
/-- `OrientSetsSizesAndSendsItsByte`, `InitPerformsItsEightSteps`: an index for a negative operand and
for one above 3. -/
theorem witness_index :
    (((3 : Fin 4).val : Int) = (-1) % 4) ∧ (((1 : Fin 4).val : Int) = 5 % 4)
      ∧ (((0 : Fin 4).val : Int) = (-32768) % 4) := by decide
/-- `busy` has the sizes of its orientation. -/
theorem busy_sizes :
    SizesFollowOrientation busy ∧ busy.width = 320 ∧ busy.height = 480 := by
  refine ⟨⟨?_, ?_⟩, ?_, ?_⟩ <;> simp [busy] <;> rfl
/-- `SetWindowValidatesThenPrograms`, `ValidWindowsFitTheFields`, `SetWindowIsThreeRequests`,
`EqualWindowsAreSentAgain`: the largest window is inside, each neighbour of it is not. -/
theorem witness_window :
    WindowInside busy ((0 : Half).toNat : Int) ((0 : Half).toNat : Int) ((320 : Half).toNat : Int)
        ((480 : Half).toNat : Int)
      ∧ ¬ WindowInside busy 0 0 321 480 ∧ ¬ WindowInside busy 0 0 320 481
      ∧ ¬ WindowInside busy (-1) 0 320 480 ∧ ¬ WindowInside busy 6 0 5 5
      ∧ (Instr.setWindow (-32768) 0 32767 480).wellFormed = true := by
  obtain ⟨_, hw, hh⟩ := busy_sizes
  simp [WindowInside, hw, hh, Instr.wellFormed, fitsField]
/-- `FillRectStreamsEveryPixel`: the largest rectangle the window test accepts. -/
theorem witness_fillRect : 1 ≤ 321 ∧ 0 + 321 ≤ busy.width + 1 ∧ 0 + 481 ≤ busy.height + 1 := by
  obtain ⟨_, hw, hh⟩ := busy_sizes
  omega
/-- `PixelLandsAtItsPlace`, `FillRectPaintsItsRectangle`: a configuration, a state and the last pixel of
the surface. -/
theorem witness_receiver :
    WindowCodesDiffer Config.ref ∧ InvLast Config.ref (after [.writeByte 0x2A])
      ∧ SizesFollowOrientation (after [.writeByte 0x2A])
      ∧ (319 : Half).toNat < (after [.writeByte 0x2A]).width
      ∧ (479 : Half).toNat < (after [.writeByte 0x2A]).height
      ∧ 319 + 1 ≤ (after [.writeByte 0x2A]).width ∧ 479 + 1 ≤ (after [.writeByte 0x2A]).height := by
  refine ⟨by decide, ?_, ⟨by decide, by decide⟩, by decide, by decide, by decide, by decide⟩
  exact Laws.writeByte_invLast Config.ref start 0x2A (by intro b hb; cases hb)

/-- `ControllerResetsForgetTheBlockKeeps`, `AddressingModeCanLeaveTheBlocksCopy`,
`InitBringsTheControllerBack`: a configuration, a state and an index for a negative operand. -/
theorem witness_controller :
    CommandCodesDiffer Config.ref ∧ InvLast Config.ref (after [.writeByte 0x2A])
      ∧ (Instr.softReset = .hardReset ∨ Instr.softReset = .softReset)
      ∧ ((3 : Fin 4).val : Int) = (-1) % 4 :=
  ⟨by decide, witness_receiver.2.1, .inr rfl, by decide⟩
/-- `InconsistentScrollLosesTheController`, at the boundaries of its clauses; and `SleepLosesTheController`
for a controller known to be awake and for one that is not. -/
theorem witness_scroll :
    (20 : Half).toNat + (440 : Half).toNat + (21 : Half).toNat ≠ 480
      ∧ (20 : Half).toNat + (440 : Half).toNat + (20 : Half).toNat = 480
      ∧ (∀ off, Receiver.start.scrollStart = some off →
          (20 : Half).toNat ≤ off.toNat ∧ off.toNat < (20 : Half).toNat + (440 : Half).toNat)
      ∧ { Receiver.start with scrollArea := some (20, 440, 20) }.scrollArea
          = some ((20, 440, 20) : Half × Half × Half)
      ∧ (20 : Half).toNat + (440 : Half).toNat ≤ (460 : Half).toNat
      ∧ (19 : Half).toNat < (20 : Half).toNat
      ∧ (459 : Half).toNat < (20 : Half).toNat + (440 : Half).toNat
      ∧ Receiver.start.asleep ≠ some false
      ∧ { Receiver.start with asleep := some false }.asleep = some false :=
  ⟨by decide, by decide, (by intro _ h; cases h), rfl, by decide, by decide, by decide, by decide, rfl⟩

end Sys2Proof.Tests
end

/-!
PROOFS. The bus writer (spec/41_bus_writer.md R80 to R88): the two branches of `WRITEBYTE`, the parts
of `WRITEFRAME`, and chip select around every frame.
-/

namespace Sys2Proof.Proofs.BusWriter

open Sys2Proof.Machine Sys2Proof.Safety Sys2Proof.Laws

/-! ### The words of the bus writer's requests -/

/-- R53: a `WRITEBYTE` word is its code, the byte in `a[7:0]`, and zeros. -/
theorem encode_writeByte (b : Byte) :
    encode (.writeByte b) = ((0x01 : Byte) ++ (0 : Byte) ++ b ++ (0 : BitVec 48), []) := by
  refine Prod.ext ?_ rfl
  apply BitVec.eq_of_getLsbD_eq
  intro k hk
  simp only [encode, encodeFields, ReqFields.pack, byteField, BitVec.getLsbD_append]
  grind

/-- R52, R53: the four presence forms are encoded alike. -/
theorem encode_frameRequest (cmd : Option Byte) (data : Option (List Byte)) :
    encode (frameRequest cmd data) = ((frameFields cmd data).pack, data.getD []) := by
  cases cmd <;> cases data <;> rfl

/-- R53: `cp` is `a[8]`. -/
theorem frameFields_cp (cmd : Option Byte) (data : Option (List Byte)) :
    (frameFields cmd data).a.getLsbD 8 = cmd.isSome := by
  cases cmd with
  | none => simp [frameFields]
  | some k => exact BitVec.getLsbD_append

/-- R53: `dp` is `b[0]`. -/
theorem frameFields_dp (cmd : Option Byte) (data : Option (List Byte)) :
    (frameFields cmd data).b.getLsbD 0 = data.isSome := by
  cases data <;> simp [frameFields, bitField]

/-! ### `WRITEBYTE` and `WRITEFRAME` as whole next states -/

theorem exec_writeByte (b : Byte) (s : State) :
    exec (.writeByte b) s = .next (s.writeByte Config.chip b) := rfl

/-- R84: the four presence forms run one list of actions. -/
theorem exec_frameRequest (cmd : Option Byte) (data : Option (List Byte)) (s : State) :
    exec (frameRequest cmd data) s = .next (run Config.chip (frame cmd data) s) := by
  cases cmd <;> cases data <;> rfl

/-- Settles O19: the two branches are `writeByte_repeated` and `writeByte_fresh`, the latches of the
second read as R31's register writes. -/
theorem writeByteHasTwoBranches : Obligations.WriteByteHasTwoBranches := by
  intro b s
  refine ⟨encode_writeByte b, fun h => ?_, fun h => ?_⟩
  · rw [exec_writeByte, writeByte_repeated _ s b h]
    rfl
  · obtain ⟨hlo, hhi⟩ := writes_give_latches Config.chip b s.outLo s.outHi
    rw [exec_writeByte, writeByte_fresh _ s b h, hlo, hhi, byteEvents, if_neg h]

/-- Settles O21: the next state is `run_frame`, the word that of `frameFields`. -/
theorem writeFrameSendsItsParts : Obligations.WriteFrameSendsItsParts := by
  intro cmd data s h
  rw [exec_frameRequest, run_frame _ cmd data s h, encode_frameRequest, unpack_pack]
  exact ⟨rfl, rfl, frameFields_cp cmd data, frameFields_dp cmd data, rfl⟩

/-! ### The levels driven on a line -/

@[simp] theorem lineLevels_append (l : Line) (es fs : List Event) :
    lineLevels l (es ++ fs) = lineLevels l es ++ lineLevels l fs := by
  induction es with
  | nil => rfl
  | cons e es ih =>
    cases e with
    | line l' v => by_cases h : l' = l <;> simp [lineLevels, h, ih]
    | write r w => exact ih
    | strobe => exact ih
    | delay t => exact ih

/-- R80: a byte drives no line. -/
@[simp] theorem lineLevels_byteEvents (l : Line) (c : Config) (last : Option Byte) (v : Byte) :
    lineLevels l (byteEvents c last v) = [] := by
  unfold byteEvents
  split <;> rfl

/-- Pairs low, high one after another are such pairs. -/
theorem lowHighPairs_append {us vs : List Bit} (hu : lowHighPairs us = true)
    (hv : lowHighPairs vs = true) : lowHighPairs (us ++ vs) = true := by
  induction us using lowHighPairs.induct with
  | case1 => exact hv
  | case2 us ih => exact ih hu
  | case3 us h1 h2 => simp [lowHighPairs] at hu

/-! ### What leaves chip select alone -/

/-- `t` follows `s` with chip select left alone: no event drives it, and what is offered is offered at
the level it had. -/
def LeavesChipSelect (s t : State) : Prop :=
  t.cs = s.cs ∧ ∃ es ls, t.trace = s.trace ++ es ∧ lineLevels .cs es = [] ∧
    t.latched = s.latched ++ ls ∧ ∀ l ∈ ls, l.cs = s.cs

theorem LeavesChipSelect.refl (s : State) : LeavesChipSelect s s :=
  ⟨rfl, [], [], by simp [lineLevels]⟩

theorem LeavesChipSelect.trans {s t u : State} (h : LeavesChipSelect s t)
    (h' : LeavesChipSelect t u) : LeavesChipSelect s u := by
  obtain ⟨hcs, es, ls, htr, hes, hla, hls⟩ := h
  obtain ⟨hcs', es', ls', htr', hes', hla', hls'⟩ := h'
  refine ⟨hcs'.trans hcs, es ++ es', ls ++ ls', by simp [htr', htr], by simp [hes, hes'],
    by simp [hla', hla], fun l hl => ?_⟩
  obtain hl | hl := List.mem_append.1 hl
  · exact hls l hl
  · exact (hls' l hl).trans hcs

/-- R22: only an action on the chip-select line touches chip select. -/
theorem perform_leavesChipSelect (c : Config) (s : State) (a : Act) (h : ∀ v, a ≠ .line .cs v) :
    LeavesChipSelect s (perform c s a) := by
  cases a with
  | line l v =>
    have hl : l ≠ .cs := fun e => h v (by rw [e])
    exact ⟨by simp [hl], [.line l v], [], by simp [lineLevels, hl]⟩
  | byte b =>
    obtain ⟨v, hv⟩ := writeByte_latched c s b
    exact ⟨by simp, byteEvents c s.last b, [⟨s.cs, s.dc, v⟩], by simp [hv]⟩
  | delay t => exact ⟨rfl, [.delay t], [], by simp [lineLevels]⟩
  | turn q => exact ⟨rfl, [], [], by simp [lineLevels]⟩

theorem run_leavesChipSelect (c : Config) (as : List Act) (s : State)
    (h : ∀ v, Act.line .cs v ∉ as) : LeavesChipSelect s (run c as s) :=
  run_keeps c (LeavesChipSelect s) as
    (fun t a ha ht => ht.trans (perform_leavesChipSelect c t a fun v e => h v (e ▸ ha)))
    s (.refl s)

/-- R20: without a byte nothing is offered. -/
theorem run_latched_of_no_byte (c : Config) (as : List Act) (s : State)
    (h : ∀ b, Act.byte b ∉ as) : (run c as s).latched = s.latched :=
  run_keeps c (fun t => t.latched = s.latched) as
    (fun t a ha ht => by
      cases a with
      | byte b => exact absurd ha (h b)
      | line l v => simpa using ht
      | delay d => simpa using ht
      | turn q => simpa using ht)
    s rfl

/-- R86: the parts of a frame do not drive chip select. -/
theorem parts_drive_no_cs (cmd : Option Byte) (data : Option (List Byte)) (v : Bit) :
    Act.line .cs v ∉ commandPart cmd ++ dataPart data := by
  cases cmd <;> cases data <;> simp [commandPart, dataPart]

/-! ### Chip select around frames (R86) -/

/-- R86: a frame, in any state, is chip select low, events that leave it alone with every byte offered
under it, and chip select high. -/
theorem run_frame_brackets (c : Config) (cmd : Option Byte) (data : Option (List Byte))
    (s : State) :
    ∃ es ls, (run c (frame cmd data) s).trace
        = s.trace ++ (.line .cs false :: es ++ [.line .cs true]) ∧
      lineLevels .cs es = [] ∧ (run c (frame cmd data) s).latched = s.latched ++ ls ∧
      ∀ l ∈ ls, l.cs = false := by
  obtain ⟨-, es, ls, htr, hes, hla, hls⟩ := run_leavesChipSelect c
    (commandPart cmd ++ dataPart data) (s.drive .cs false) (parts_drive_no_cs cmd data)
  have hrun : run c (frame cmd data) s
      = (run c (commandPart cmd ++ dataPart data) (s.drive .cs false)).drive .cs true :=
    run_append c (commandPart cmd ++ dataPart data) [.line .cs true] (s.drive .cs false)
  refine ⟨es, ls, ?_, hes, ?_, hls⟩
  · rw [hrun, State.drive_trace, htr]
    simp
  · rw [hrun, State.drive_latched, hla]
    simp

/-- `t` follows `s` by whole frames and by what sends no byte: the chip-select levels between are low,
high, low, high, ..., and every byte is offered with chip select low. -/
def Bracketed (s t : State) : Prop :=
  ∃ es ls, t.trace = s.trace ++ es ∧ lowHighPairs (lineLevels .cs es) = true ∧
    t.latched = s.latched ++ ls ∧ ∀ l ∈ ls, l.cs = false

theorem Bracketed.trans {s t u : State} (h : Bracketed s t) (h' : Bracketed t u) :
    Bracketed s u := by
  obtain ⟨es, ls, htr, hes, hla, hls⟩ := h
  obtain ⟨es', ls', htr', hes', hla', hls'⟩ := h'
  refine ⟨es ++ es', ls ++ ls', by simp [htr', htr], ?_, by simp [hla', hla], fun l hl => ?_⟩
  · rw [lineLevels_append]
    exact lowHighPairs_append hes hes'
  · exact (List.mem_append.1 hl).elim (hls l) (hls' l)

/-- A run of these actions is bracketed from every state. -/
def BracketedRun (c : Config) (as : List Act) : Prop := ∀ s, Bracketed s (run c as s)

theorem BracketedRun.append {c : Config} {as bs : List Act} (h : BracketedRun c as)
    (h' : BracketedRun c bs) : BracketedRun c (as ++ bs) := fun s => by
  rw [run_append]
  exact (h s).trans (h' _)

theorem bracketedRun_frame (c : Config) (cmd : Option Byte) (data : Option (List Byte)) :
    BracketedRun c (frame cmd data) := fun s => by
  obtain ⟨es, ls, htr, hes, hla, hls⟩ := run_frame_brackets c cmd data s
  exact ⟨_, ls, htr, by simp [lineLevels, hes, lowHighPairs], hla, hls⟩

/-- Actions that neither drive chip select nor send a byte are bracketed. -/
theorem bracketedRun_of_silent (c : Config) (as : List Act) (hcs : ∀ v, Act.line .cs v ∉ as)
    (hb : ∀ b, Act.byte b ∉ as) : BracketedRun c as := fun s => by
  obtain ⟨-, es, -, htr, hes, -⟩ := run_leavesChipSelect c as s hcs
  exact ⟨es, [], htr, by simp [hes, lowHighPairs],
    by simp [run_latched_of_no_byte c as s hb], by simp⟩

theorem bracketedRun_hardReset (c : Config) : BracketedRun c hardResetActions :=
  bracketedRun_of_silent c _ (by simp [hardResetActions]) (by simp [hardResetActions])

theorem bracketedRun_backlight (c : Config) (on : Bit) : BracketedRun c (backlightActions on) :=
  bracketedRun_of_silent c _ (by simp [backlightActions]) (by simp [backlightActions])

theorem bracketedRun_delay (c : Config) (t : Nat) : BracketedRun c [.delay t] :=
  bracketedRun_of_silent c _ (by simp) (by simp)

theorem bracketedRun_orient (c : Config) (r : Int) : BracketedRun c (orientActions c r) :=
  (bracketedRun_of_silent c [.turn (rotationIndex r)] (by simp) (by simp)).append
    (bracketedRun_frame c _ _)

/-- R112: `INIT` is a reset pulse, frames, the backlight and delays. -/
theorem bracketedRun_init (c : Config) (r : Int) : BracketedRun c (initActions c r) :=
  have delay := bracketedRun_delay c
  have command (k : Byte) := bracketedRun_frame c (some k) none
  bracketedRun_hardReset c
    |>.append (command _) |>.append (delay _)
    |>.append (bracketedRun_frame c _ _) |>.append (delay _)
    |>.append (bracketedRun_orient c r) |>.append (delay _)
    |>.append (command _) |>.append (delay _)
    |>.append (command _) |>.append (delay _)
    |>.append (bracketedRun_backlight c true) |>.append (delay _)
    |>.append (command _) |>.append (delay _)

/-- R134, R135: `SETWINDOW` is three frames or nothing. -/
theorem bracketedRun_setWindow (c : Config) (width height : Nat) (x0 y0 x1 y1 : Int) :
    BracketedRun c (setWindowActions c width height x0 y0 x1 y1) := by
  unfold setWindowActions
  split
  · exact ((bracketedRun_frame c _ _).append (bracketedRun_frame c _ _)).append
      (bracketedRun_frame c _ _)
  · exact bracketedRun_of_silent c [] (by simp) (by simp)

/-- R86: every request but a bare `WRITEBYTE` is bracketed. -/
theorem bracketedRun_actionsOf (c : Config) (width height : Nat) (i : Instr)
    (hi : ∀ b, i ≠ .writeByte b) : BracketedRun c (actionsOf c width height i) := by
  cases i with
  | writeByte b => exact absurd rfl (hi b)
  | hardReset => exact bracketedRun_hardReset c
  | backlight on => exact bracketedRun_backlight c on
  | orient r => exact bracketedRun_orient c r
  | init r => exact bracketedRun_init c r
  | setWindow x0 y0 x1 y1 => exact bracketedRun_setWindow c width height x0 y0 x1 y1
  | _ => exact bracketedRun_frame c _ _

/-- R22, R80, R100, R111: what sends no frame leaves chip select alone. -/
theorem exec_leavesChipSelect {b : Byte} {on : Bit} {i : Instr} {s t : State}
    (he : exec i s = .next t) (hi : i = .writeByte b ∨ i = .hardReset ∨ i = .backlight on) :
    LeavesChipSelect s t := by
  rw [exec_next_iff] at he
  subst he
  obtain rfl | rfl | rfl := hi
  · exact run_leavesChipSelect _ _ s (by simp [actionsOf])
  · exact run_leavesChipSelect _ _ s (by simp [actionsOf, hardResetActions])
  · exact run_leavesChipSelect _ _ s (by simp [actionsOf, backlightActions])

/-- Settles O24: a frame by `run_frame_brackets`, every request but `WRITEBYTE` by
`bracketedRun_actionsOf`, what sends no frame by `exec_leavesChipSelect`. -/
theorem chipSelectBracketsEveryFrame : Obligations.ChipSelectBracketsEveryFrame := by
  refine ⟨fun cmd data s t he => ?_, fun i s t he => ?_, fun b on i s t he hi => ?_⟩
  · rw [exec_frameRequest] at he
    injection he with he
    subst he
    obtain ⟨es, -, htr, hes, -⟩ := run_frame_brackets Config.chip cmd data s
    exact ⟨es, htr, hes⟩
  · by_cases hi : ∃ b, i = .writeByte b
    · obtain ⟨b, rfl⟩ := hi
      obtain ⟨-, es, ls, htr, hes, hla, -⟩ := exec_leavesChipSelect (on := false) he (.inl rfl)
      exact ⟨es, ls, htr, by simp [hes, lowHighPairs], hla, fun h => absurd rfl (h b)⟩
    · rw [exec_next_iff] at he
      subst he
      obtain ⟨es, ls, htr, hes, hla, hls⟩ :=
        bracketedRun_actionsOf Config.chip s.width s.height i (not_exists.1 hi) s
      exact ⟨es, ls, htr, hes, hla, fun _ => hls⟩
  · obtain ⟨hcs, es, -, htr, hes, -⟩ := exec_leavesChipSelect he hi
    exact ⟨hcs, by simp [htr, hes]⟩

end Sys2Proof.Proofs.BusWriter

/-!
PROOFS. The controller protocol (spec/42_controller_protocol.md R100 to R114): `NORMALON` as a command
frame, and `SLEEP` as the controller hears it.
-/

namespace Sys2Proof.Proofs.Protocol

open Sys2Proof.Machine Sys2Proof.Safety Sys2Proof.Laws

/-! ### `NORMALON` as a whole next state -/

/-- R109 with R84: `NORMALON` is the frame of its command code. -/
theorem exec_normalOn (s : State) (h : InvLast Config.chip s) :
    exec .normalOn s = .next (afterFrame Config.chip (some Config.chip.cmdNoron) none s) := by
  rw [exec_runs_actions, actionsOf, normalOnActions, run_frame _ _ _ s h]

/-- Settles O28: the word by evaluation, the next state by `exec_normalOn`. -/
theorem normalOnSendsItsCommand : Obligations.NormalOnSendsItsCommand :=
  ⟨by decide, exec_normalOn⟩

/-! ### What the controller hears of one request -/

/-- R138: of a request that is one command frame the controller hears its command. -/
theorem between_commandRequest (c : Config) (width height : Nat) (r : Receiver) (s : State)
    (i : Instr) (k : Byte) (hi : actionsOf c s.width s.height i = frame (some k) none)
    (h : InvLast c s) :
    r.between c width height s (runRequests c [i] s) = r.command c k := by
  have hrun : runRequests c [i] s = run c (frame (some k) none) s := by rw [← hi]; rfl
  rw [hrun, ← heardOf, heardOf_frame c width height _ _ s r h, watch_command]

/-- Log 34: a controller known to be awake is left as it was, its memory write ended. -/
theorem wake_of_awake {r : Receiver} (h : r.asleep = some false) :
    r.wake = { r with phase := .quiet } := if_pos h

/-- Log 34: of any other controller only that it is awake is known afterwards. -/
theorem wake_of_not_known_awake {r : Receiver} (h : r.asleep ≠ some false) :
    r.wake = { Receiver.unknown .quiet with asleep := some false } := if_neg h

/-- Settles O54: `SLEEP` is heard as its command (`between_commandRequest`), which under different codes
is `fallAsleep` or `wake`. -/
theorem sleepLosesTheController : Obligations.SleepLosesTheController := by
  intro c width height r s hc h
  obtain ⟨-, -, -, slpin, slpout, -⟩ := command_of_code c r hc
  have asleep := between_commandRequest c width height r s (.sleep true) c.cmdSlpin rfl h
  have awake := between_commandRequest c width height r s (.sleep false) c.cmdSlpout rfl h
  rw [slpin] at asleep
  rw [slpout] at awake
  exact ⟨asleep, fun hr => awake.trans (wake_of_not_known_awake hr),
    fun hr => awake.trans (wake_of_awake hr)⟩

end Sys2Proof.Proofs.Protocol

/-!
PROOFS. The window (spec/43_window.md R130 to R136) and the packing of a colour (R139).
-/

namespace Sys2Proof.Proofs.Window

open Sys2Proof.Machine Sys2Proof.Safety Sys2Proof.Laws

/-! ### The three frames of a window -/

/-- R130: the column frame. -/
theorem run_casetActions (c : Config) (xs xe : Half) (s : State) (h : InvLast c s) :
    run c (casetActions c xs xe) s
      = afterFrame c (some c.cmdCaset) (some (spanBytes xs xe)) s :=
  run_frame c _ _ s h

/-- R131: the row frame. -/
theorem run_rasetActions (c : Config) (ys ye : Half) (s : State) (h : InvLast c s) :
    run c (rasetActions c ys ye) s
      = afterFrame c (some c.cmdRaset) (some (spanBytes ys ye)) s :=
  run_frame c _ _ s h

/-- R132: the memory-write frame. -/
theorem run_ramWrActions (c : Config) (s : State) (h : InvLast c s) :
    run c (ramWrActions c) s = afterFrame c (some c.cmdRamwr) none s :=
  run_frame c _ _ s h

/-- Settles O37: the word by evaluation, the next state by `run_ramWrActions`. -/
theorem ramWrSendsItsCommand : Obligations.RamWrSendsItsCommand := by
  refine ⟨by decide, fun s h => ?_⟩
  rw [exec_runs_actions, actionsOf, run_ramWrActions _ s h]

/-! ### `SETWINDOW` on either side of the window test -/

/-- R133, R134: outside the bounds nothing is sent. -/
theorem setWindowActions_of_outside (c : Config) {s : State} {x0 y0 x1 y1 : Int}
    (h : ¬ WindowInside s x0 y0 x1 y1) :
    setWindowActions c s.width s.height x0 y0 x1 y1 = [] :=
  if_neg (mt (validWindow_iff ..).1 h)

/-- R134, R136: inside the bounds the corners are sent as given, in three frames. -/
theorem setWindowActions_of_inside (c : Config) {s : State} {xs ys xe ye : Half}
    (h : WindowInside s xs.toNat ys.toNat xe.toNat ye.toNat) :
    setWindowActions c s.width s.height xs.toNat ys.toNat xe.toNat ye.toNat
      = casetActions c xs xe ++ rasetActions c ys ye ++ ramWrActions c := by
  rw [setWindowActions, if_pos ((validWindow_iff ..).2 h)]
  simp only [coordinate_toNat]

/-- Settles O38: the word's fields are the encoder's, a window outside runs no action, and one inside
runs the three frames, each from a state that meets `INV_LAST` because the frame before it keeps it. -/
theorem setWindowValidatesThenPrograms : Obligations.SetWindowValidatesThenPrograms := by
  refine fun x0 y0 x1 y1 s => ⟨fun _ => rfl, fun hout => ?_, ?_⟩
  · rw [exec_runs_actions, actionsOf, setWindowActions_of_outside _ hout, run_nil]
  · rintro xs ys xe ye hin h - rfl rfl rfl rfl
    have hcol := afterFrame_invLast _ (some Config.chip.cmdCaset) (some (spanBytes xs xe)) s h
    have hrow := afterFrame_invLast _ (some Config.chip.cmdRaset) (some (spanBytes ys ye)) _ hcol
    rw [exec_runs_actions, actionsOf, setWindowActions_of_inside _ hin, run_append, run_append,
      run_casetActions _ xs xe s h, run_rasetActions _ ys ye _ hcol, run_ramWrActions _ _ hrow]

/-! ### `color565` -/

/-- R139: a colour is the upper bits of its three channels side by side. -/
theorem color565_eq_append (r g b : Byte) :
    color565 r g b = r.extractLsb' 3 5 ++ (g.extractLsb' 2 6 ++ b.extractLsb' 3 5) := by
  have upper5 : r &&& (0xF8 : Byte) = r >>> 3 <<< 3 := (BitVec.shiftLeft_ushiftRight (n := 3)).symm
  have upper6 : g &&& (0xFC : Byte) = g >>> 2 <<< 2 := (BitVec.shiftLeft_ushiftRight (n := 2)).symm
  rw [color565, upper5, upper6]
  apply BitVec.eq_of_getLsbD_eq
  intro k hk
  grind

/-- R139: the mask of red and of blue leaves the bits that are sent. -/
theorem extractLsb'_and_F8 (v : Byte) : (v &&& 0xF8).extractLsb' 3 5 = v.extractLsb' 3 5 :=
  BitVec.extractLsb'_and.trans BitVec.and_allOnes

/-- R139: so does the mask of green. -/
theorem extractLsb'_and_FC (v : Byte) : (v &&& 0xFC).extractLsb' 2 6 = v.extractLsb' 2 6 :=
  BitVec.extractLsb'_and.trans BitVec.and_allOnes

/-- Settles O46: the fields are those of `color565_eq_append`, and a masked channel fills them alike. -/
theorem color565PacksTheChannels : Obligations.Color565PacksTheChannels := by
  intro r g b
  simp only [color565_eq_append, extractLsb'_and_F8, extractLsb'_and_FC]
  refine ⟨?_, ?_, ?_, trivial⟩
  · exact BitVec.extractLsb'_append_eq_left
  · exact (BitVec.extractLsb'_append_eq_of_add_le (by decide)).trans
      BitVec.extractLsb'_append_eq_left
  · exact (BitVec.extractLsb'_append_eq_of_add_le (by decide)).trans
      BitVec.extractLsb'_append_eq_right

end Sys2Proof.Proofs.Window

/-!
PROOFS. The scroll controller (spec/44_scroll.md R150 to R152): its two records as frames, and what the
controller knows after them (93 U2).
-/

namespace Sys2Proof.Proofs.Scroll

open Sys2Proof.Machine Sys2Proof.Safety Sys2Proof.Laws

/-! ### The records as frames -/

/-- R150: the record of the three areas. -/
theorem run_vscrDefActions (c : Config) (tfa vsa bfa : Half) (s : State) (h : InvLast c s) :
    run c (vscrDefActions c tfa vsa bfa) s
      = afterFrame c (some c.cmdVscrdef) (some (be16 tfa ++ be16 vsa ++ be16 bfa)) s :=
  run_frame c _ _ s h

/-- R151: the record of the start row. -/
theorem run_vscSadActions (c : Config) (off : Half) (s : State) (h : InvLast c s) :
    run c (vscSadActions c off) s = afterFrame c (some c.cmdVscsad) (some (be16 off)) s :=
  run_frame c _ _ s h

/-- Settles O42: each request runs its record's frame (`run_vscrDefActions`, `run_vscSadActions`), and
the words are the encoder's fields. -/
theorem scrollRecordsAreSentAsGiven : Obligations.ScrollRecordsAreSentAsGiven := by
  intro tfa vsa bfa off s h
  refine ⟨?_, ?_, rfl, rfl⟩
  · rw [exec_runs_actions, actionsOf, run_vscrDefActions _ tfa vsa bfa s h]
    rfl
  · rw [exec_runs_actions, actionsOf, run_vscSadActions _ off s h]
    rfl

/-! ### What the controller receives -/

/-- R8, R36: the two bytes of a field, most significant first, are the field. -/
theorem hi8_append_lo8 (v : Half) : hi8 v ++ lo8 v = v :=
  BitVec.extractLsb'_append_extractLsb'_eq_extractLsb' rfl |>.trans BitVec.extractLsb'_eq_self

/-- R138: of a request that is one frame with both parts the controller hears its command and then its
parameters. -/
theorem between_recordRequest (c : Config) (width height : Nat) (r : Receiver) (s : State)
    (i : Instr) (k : Byte) (ds : List Byte)
    (hi : actionsOf c s.width s.height i = frame (some k) (some ds)) (h : InvLast c s) :
    r.between c width height s (runRequests c [i] s)
      = ds.foldl (Receiver.data width height) (r.command c k) := by
  have hrun : runRequests c [i] s = run c (frame (some k) (some ds)) s := by rw [← hi]; rfl
  rw [hrun, ← heardOf, heardOf_frame c width height _ _ s r h, watch_command_data]

/-- R150: after its command, the bytes of the three areas are received as the areas. -/
theorem receive_scrollArea (width height : Nat) (r : Receiver) (tfa vsa bfa : Half) :
    (be16 tfa ++ be16 vsa ++ be16 bfa).foldl (Receiver.data width height)
        { r with scrollArea := none, phase := .params .scrollArea [] }
      = r.takeScrollArea tfa vsa bfa := by
  simp [be16, Receiver.data, Receiver.takeRecord, Receiver.takeScrollArea, hi8_append_lo8]

/-- R151: after its command, the bytes of the start row are received as the start row. -/
theorem receive_scrollStart (width height : Nat) (r : Receiver) (off : Half) :
    (be16 off).foldl (Receiver.data width height)
        { r with scrollStart := none, phase := .params .scrollStart [] }
      = r.takeScrollStart off := by
  simp [be16, Receiver.data, Receiver.takeRecord, Receiver.takeScrollStart, hi8_append_lo8]

/-- R150: `VSCRDEF` reaches the controller as its three areas, whatever it was doing. -/
theorem between_vscrDef (c : Config) (width height : Nat) (r : Receiver) (s : State)
    (tfa vsa bfa : Half) (hc : CommandCodesDiffer c) (h : InvLast c s) :
    r.between c width height s (runRequests c [.vscrDef tfa vsa bfa] s)
      = r.takeScrollArea tfa vsa bfa := by
  obtain ⟨-, -, -, -, -, -, -, -, -, vscrdef, -⟩ := command_of_code c r hc
  rw [between_recordRequest c width height r s (.vscrDef tfa vsa bfa) _ _ rfl h, vscrdef,
    receive_scrollArea]

/-- R151: `VSCSAD` reaches the controller as its start row, whatever it was doing. -/
theorem between_vscSad (c : Config) (width height : Nat) (r : Receiver) (s : State) (off : Half)
    (hc : CommandCodesDiffer c) (h : InvLast c s) :
    r.between c width height s (runRequests c [.vscSad off] s) = r.takeScrollStart off := by
  obtain ⟨-, -, -, -, -, -, -, -, -, -, vscsad⟩ := command_of_code c r hc
  rw [between_recordRequest c width height r s (.vscSad off) _ _ rfl h, vscsad, receive_scrollStart]

/-! ### Consistent and inconsistent records (U2) -/

/-- Log 35: the scroll area is the `vsa` rows after the `tfa` fixed ones. -/
theorem inScrollArea_iff (tfa vsa bfa off : Half) :
    inScrollArea (tfa, vsa, bfa) off = true
      ↔ tfa.toNat ≤ off.toNat ∧ off.toNat < tfa.toNat + vsa.toNat := by
  simp [inScrollArea]

/-- U2: parts that do not add up to the panel height leave any value. -/
theorem takeScrollArea_of_bad_sum (r : Receiver) {tfa vsa bfa : Half}
    (h : tfa.toNat + vsa.toNat + bfa.toNat ≠ 480) :
    r.takeScrollArea tfa vsa bfa = .loseAll :=
  if_neg fun ⟨hsum, _⟩ => h hsum

/-- R150, log 35: parts that do, with every known start inside, are the new area. -/
theorem takeScrollArea_of_consistent {r : Receiver} {tfa vsa bfa : Half}
    (hsum : tfa.toNat + vsa.toNat + bfa.toNat = 480)
    (hstart : ∀ off, r.scrollStart = some off →
      tfa.toNat ≤ off.toNat ∧ off.toNat < tfa.toNat + vsa.toNat) :
    r.takeScrollArea tfa vsa bfa
      = { r with scrollArea := some (tfa, vsa, bfa), phase := .quiet } :=
  if_pos ⟨hsum, (Option.all_eq_true ..).2 fun off hoff =>
    (inScrollArea_iff tfa vsa bfa off).2 (hstart off hoff)⟩

/-- U2: a start row outside the known area leaves any value. -/
theorem takeScrollStart_of_outside {r : Receiver} {tfa vsa bfa off : Half}
    (harea : r.scrollArea = some (tfa, vsa, bfa))
    (h : ¬ (tfa.toNat ≤ off.toNat ∧ off.toNat < tfa.toNat + vsa.toNat)) :
    r.takeScrollStart off = .loseAll := by
  rw [← inScrollArea_iff tfa vsa bfa] at h
  exact if_neg (by simpa [harea] using h)

/-- R151, log 35: one inside is the new start. -/
theorem takeScrollStart_of_inside {r : Receiver} {tfa vsa bfa off : Half}
    (harea : r.scrollArea = some (tfa, vsa, bfa))
    (h : tfa.toNat ≤ off.toNat ∧ off.toNat < tfa.toNat + vsa.toNat) :
    r.takeScrollStart off = { r with scrollStart := some off, phase := .quiet } := by
  rw [← inScrollArea_iff tfa vsa bfa] at h
  exact if_pos (by simpa [harea] using h)

/-- Settles O53: the records reach the controller whole (`between_vscrDef`, `between_vscSad`), where
each clause is one branch of `takeScrollArea` or `takeScrollStart`. -/
theorem inconsistentScrollLosesTheController :
    Obligations.InconsistentScrollLosesTheController := by
  intro c width height r s hc h
  refine ⟨fun tfa vsa bfa => ?_, fun tfa vsa bfa off harea => ?_⟩
  · rw [between_vscrDef c width height r s tfa vsa bfa hc h]
    exact ⟨takeScrollArea_of_bad_sum r, takeScrollArea_of_consistent⟩
  · rw [between_vscSad c width height r s off hc h]
    exact ⟨fun hout => takeScrollStart_of_outside harea (by omega),
      fun hlo hhi => takeScrollStart_of_inside harea ⟨hlo, hhi⟩⟩

end Sys2Proof.Proofs.Scroll

/-!
PROOFS. No request fails (spec/60_exceptions.md R160, R161): every one completes with at least one
event, or is a `SETWINDOW` whose window is outside the bounds and changes nothing.
-/

namespace Sys2Proof.Proofs.Exceptions

open Sys2Proof.Machine Sys2Proof.Safety Sys2Proof.Laws Sys2Proof.Proofs.Window

/-! ### Which actions are seen outside -/

/-- `t` follows `s` by at least one event. -/
def AppendsEvent (s t : State) : Prop := ∃ es, t.trace = s.trace ++ es ∧ es ≠ []

/-- Some action is not a state write of `ORIENT`, the one kind of action that emits nothing. -/
def HasEvent (as : List Act) : Prop := ∃ a ∈ as, ∀ q, a ≠ .turn q

/-- R80: a byte is at least its strobe. -/
theorem byteEvents_ne_nil (c : Config) (last : Option Byte) (v : Byte) :
    byteEvents c last v ≠ [] := by
  unfold byteEvents
  split <;> simp

theorem perform_appendsEvent (c : Config) (s : State) (a : Act) (h : ∀ q, a ≠ .turn q) :
    AppendsEvent s (perform c s a) := by
  cases a with
  | line l v => exact ⟨[.line l v], s.drive_trace l v, List.cons_ne_nil _ _⟩
  | byte b => exact ⟨_, writeByte_trace c s b, byteEvents_ne_nil c s.last b⟩
  | delay t => exact ⟨[.delay t], s.emit_trace (.delay t), List.cons_ne_nil _ _⟩
  | turn q => exact absurd rfl (h q)

/-- No action takes an event back, so one that emits leaves its event in the whole run. -/
theorem run_appendsEvent (c : Config) (as : List Act) (s : State) (h : HasEvent as) :
    AppendsEvent s (run c as s) := by
  obtain ⟨a, ha, hturn⟩ := h
  obtain ⟨before, after, rfl⟩ := List.append_of_mem ha
  rw [run_append, run_cons]
  obtain ⟨es, -, hes, -⟩ := run_extends c before s
  obtain ⟨fs, hfs, hne⟩ := perform_appendsEvent c (run c before s) a hturn
  obtain ⟨gs, -, hgs, -⟩ := run_extends c after (perform c (run c before s) a)
  exact ⟨es ++ fs ++ gs, by simp [hgs, hfs, hes], by simp [hne]⟩

/-! ### Which requests have such an action -/

theorem HasEvent.append_right {bs : List Act} (h : HasEvent bs) (as : List Act) :
    HasEvent (as ++ bs) := by
  obtain ⟨a, ha, hturn⟩ := h
  exact ⟨a, List.mem_append_right as ha, hturn⟩

theorem hasEvent_line (l : Line) (v : Bit) (as : List Act) : HasEvent (.line l v :: as) :=
  ⟨_, List.mem_cons_self, nofun⟩

/-- R84, R85: a frame drives chip select, also when it has no part. -/
theorem hasEvent_frame (cmd : Option Byte) (data : Option (List Byte)) :
    HasEvent (frame cmd data) := hasEvent_line .cs false _

/-- R134: inside the bounds `SETWINDOW` ends with the frame of `RAMWR`. -/
theorem hasEvent_setWindow (c : Config) {s : State} {x0 y0 x1 y1 : Int}
    (h : WindowInside s x0 y0 x1 y1) :
    HasEvent (setWindowActions c s.width s.height x0 y0 x1 y1) := by
  rw [setWindowActions, if_pos ((validWindow_iff ..).2 h)]
  exact (hasEvent_frame _ _).append_right _

/-- R161: every request that is not skipped has an action that emits. -/
theorem hasEvent_actionsOf (c : Config) (s : State) (i : Instr)
    (h : ∀ x0 y0 x1 y1, i = .setWindow x0 y0 x1 y1 → WindowInside s x0 y0 x1 y1) :
    HasEvent (actionsOf c s.width s.height i) := by
  cases i with
  | writeByte b => exact ⟨.byte b, List.mem_cons_self, nofun⟩
  | hardReset => exact hasEvent_line .rst false _
  | backlight on => exact hasEvent_line .bl on _
  | orient r => exact (hasEvent_frame _ _).append_right [.turn (rotationIndex r)]
  | init r => exact hasEvent_line .rst false _
  | setWindow x0 y0 x1 y1 => exact hasEvent_setWindow c (h x0 y0 x1 y1 rfl)
  | _ => exact hasEvent_frame _ _

/-- R134, R135: a `SETWINDOW` outside the bounds leaves the whole state as it is. -/
theorem exec_setWindow_of_outside {s : State} {x0 y0 x1 y1 : Int}
    (h : ¬ WindowInside s x0 y0 x1 y1) : exec (.setWindow x0 y0 x1 y1) s = .next s := by
  rw [exec_runs_actions, actionsOf, setWindowActions_of_outside _ h, run_nil]

/-- Settles O43: a window outside is skipped (`exec_setWindow_of_outside`), every other request has
an action that emits (`hasEvent_actionsOf`) and so appends its event (`run_appendsEvent`). -/
theorem everyRequestIsDoneOrSkipped : Obligations.EveryRequestIsDoneOrSkipped := by
  intro i s
  by_cases hskip : ∃ x0 y0 x1 y1, i = .setWindow x0 y0 x1 y1 ∧ ¬ WindowInside s x0 y0 x1 y1
  · obtain ⟨x0, y0, x1, y1, rfl, hout⟩ := hskip
    exact ⟨s, [], exec_setWindow_of_outside hout, s.trace.append_nil.symm,
      .inr ⟨rfl, x0, y0, x1, y1, rfl, hout⟩⟩
  · have hacts := hasEvent_actionsOf Config.chip s i fun x0 y0 x1 y1 hi =>
      not_not.1 fun hout => hskip ⟨x0, y0, x1, y1, hi, hout⟩
    obtain ⟨es, htrace, hne⟩ := run_appendsEvent Config.chip _ s hacts
    exact ⟨_, es, exec_runs_actions i s, htrace, .inl hne⟩

end Sys2Proof.Proofs.Exceptions

/-!
PROOFS. Resets and the controller's own copy of what it was told (spec/70_reset_and_hazards.md
R195): what a reset, a turn and `INIT` leave the controller knowing, and the block holding.
-/

namespace Sys2Proof.Proofs.ResetHazards

open Sys2Proof.Machine Sys2Proof.Safety Sys2Proof.Laws

/-! ### What leaves the block's orientation and sizes alone (R22) -/

/-- `t` has the orientation and the sizes of `s`. -/
def KeepsSurface (s t : State) : Prop :=
  t.orientation = s.orientation ∧ t.width = s.width ∧ t.height = s.height

/-- R22: only the state writes of `ORIENT` touch the orientation and the sizes. -/
theorem run_keepsSurface (c : Config) (as : List Act) (s : State) (h : ∀ q, Act.turn q ∉ as) :
    KeepsSurface s (run c as s) :=
  run_keeps c (KeepsSurface s) as
    (fun t a ha ht => by
      cases a with
      | turn q => exact absurd ha (h q)
      | line l v => simpa [KeepsSurface] using ht
      | byte b => simpa [KeepsSurface] using ht
      | delay d => simpa [KeepsSurface] using ht)
    s ⟨rfl, rfl, rfl⟩

theorem run_frame_keepsSurface (c : Config) (cmd : Option Byte) (data : Option (List Byte))
    (s : State) : KeepsSurface s (run c (frame cmd data) s) :=
  run_keepsSurface c _ s fun q => by
    cases cmd <;> cases data <;> simp [frame, commandPart, dataPart]

theorem run_hardReset_keepsSurface (c : Config) (s : State) :
    KeepsSurface s (run c hardResetActions s) :=
  run_keepsSurface c _ s (by simp [hardResetActions])

/-- R106, R107: after `ORIENT` the block has the orientation of the request. -/
theorem run_orient_orientation (c : Config) (k : Int) (s : State) :
    (run c (orientActions c k) s).orientation = rotationIndex k := by
  obtain ⟨horientation, -⟩ := run_frame_keepsSurface c (some c.cmdMadctl)
    (some [c.rotTable (rotationIndex k)]) (s.setOrientation (rotationIndex k))
  exact horientation

/-! ### From what the controller's observer knows before a run to what it knows after -/

section
variable {c : Config} {width height : Nat}

/-- From every state that meets `INV_LAST`, a run of these actions takes an observer that knows `r`
to one that knows `r'`. -/
def Leads (c : Config) (width height : Nat) (as : List Act) (r r' : Receiver) : Prop :=
  ∀ s, InvLast c s → heardOf c width height as s r = r'

theorem Leads.append {as bs : List Act} {r r' r'' : Receiver} (h : Leads c width height as r r')
    (h' : Leads c width height bs r' r'') : Leads c width height (as ++ bs) r r'' := fun s hs => by
  rw [heardOf_append, h s hs, h' _ (run_invLast c as s hs)]

/-- The observer of one request is the observer of its actions. -/
theorem Leads.request {i : Instr} {s : State} {r r' : Receiver}
    (h : Leads c width height (actionsOf c s.width s.height i) r r') (hs : InvLast c s) :
    r.between c width height s (runRequests c [i] s) = r' := h s hs

theorem leads_hardReset (r : Receiver) : Leads c width height hardResetActions r .afterReset :=
  fun s _ => heardOf_hardReset c width height s r

theorem leads_delay (t : Nat) (r : Receiver) : Leads c width height [.delay t] r r :=
  fun s _ => heardOf_delay c width height t s r

theorem leads_backlight (on : Bit) (r : Receiver) :
    Leads c width height (backlightActions on) r r :=
  fun s _ => heardOf_backlight c width height on s r

theorem leads_turn (q : Fin 4) (r : Receiver) : Leads c width height [.turn q] r r :=
  fun s _ => heardOf_turn c width height q s r

/-- A command frame leads where its command does. -/
theorem leads_command {k : Byte} {r r' : Receiver} (hk : r.command c k = r') :
    Leads c width height (frame (some k) none) r r' := fun s hs => by
  rw [heardOf_frame c width height _ _ s r hs, watch_command, hk]

/-- A frame with both parts leads on from its command by its parameters in order. -/
theorem leads_record {k : Byte} {r r' : Receiver} (hk : r.command c k = r') (ds : List Byte) :
    Leads c width height (frame (some k) (some ds)) r
      (ds.foldl (Receiver.data width height) r') := fun s hs => by
  rw [heardOf_frame c width height _ _ s r hs, watch_command_data, hk]

/-! ### The protocol's frames, when every command has a code of its own -/

variable (hc : CommandCodesDiffer c)
include hc

/-- R195: the reset command leaves a controller that has been reset. -/
theorem leads_softReset (r : Receiver) :
    Leads c width height (softResetActions c) r .afterReset := by
  obtain ⟨swreset, -⟩ := command_of_code c r hc
  exact leads_command swreset

theorem leads_wake (r : Receiver) : Leads c width height (sleepActions c false) r r.wake := by
  obtain ⟨-, -, -, -, slpout, -⟩ := command_of_code c r hc
  exact leads_command slpout

/-- R105: the colour mode's one byte completes its record. -/
theorem leads_colorMode (m : Byte) (r : Receiver) :
    Leads c width height (colorModeActions c m) r
      { r with colorMode := some m, phase := .quiet } := by
  obtain ⟨-, -, colmod, -⟩ := command_of_code c r hc
  exact leads_record colmod [m]

/-- R106, log 33: the addressing mode's one byte completes its record; the window is kept, the
pixels are forgotten. -/
theorem leads_addressing (v : Byte) (r : Receiver) :
    Leads c width height (frame (some c.cmdMadctl) (some [v])) r
      { r with addressing := some v, pixels := [], phase := .quiet } := by
  obtain ⟨-, madctl, -⟩ := command_of_code c r hc
  exact leads_record madctl [v]

/-- R106: `ORIENT` is heard as its frame alone. -/
theorem leads_orient (k : Int) (r : Receiver) :
    Leads c width height (orientActions c k) r
      { r with addressing := some (c.rotTable (rotationIndex k)), pixels := [], phase := .quiet } :=
  (leads_turn (rotationIndex k) r).append (leads_addressing hc _ r)

theorem leads_invert (on : Bit) (r : Receiver) :
    Leads c width height (invertActions c on) r
      { r with inverted := some on, phase := .quiet } := by
  obtain ⟨-, -, -, -, -, invon, invoff, -⟩ := command_of_code c r hc
  cases on with
  | false => exact leads_command invoff
  | true => exact leads_command invon

theorem leads_normalOn (r : Receiver) :
    Leads c width height (normalOnActions c) r { r with phase := .quiet } := by
  obtain ⟨-, -, -, -, -, -, -, noron, -⟩ := command_of_code c r hc
  exact leads_command noron

theorem leads_displayOn (r : Receiver) :
    Leads c width height (displayOnActions c) r
      { r with displaying := some true, phase := .quiet } := by
  obtain ⟨-, -, -, -, -, -, -, -, dispon, -⟩ := command_of_code c r hc
  exact leads_command dispon

/-- R112, R195: the steps of `INIT` one after another. The pulse forgets, and each frame after it
tells one thing. -/
theorem leads_init (k : Int) (r : Receiver) :
    Leads c width height (initActions c k) r
      { Receiver.afterReset with
        addressing := some (c.rotTable (rotationIndex k))
        colorMode := some c.colmodInit
        asleep := some false
        inverted := some c.initInvert
        displaying := some true } :=
  leads_hardReset r
    |>.append (leads_wake hc _) |>.append (leads_delay _ _)
    |>.append (leads_colorMode hc _ _) |>.append (leads_delay _ _)
    |>.append (leads_orient hc k _) |>.append (leads_delay _ _)
    |>.append (leads_invert hc _ _) |>.append (leads_delay _ _)
    |>.append (leads_normalOn hc _) |>.append (leads_delay _ _)
    |>.append (leads_backlight true _) |>.append (leads_delay _ _)
    |>.append (leads_displayOn hc _) |>.append (leads_delay _ _)

end

/-! ### The obligations -/

/-- Settles O50: the pulse (`leads_hardReset`) and the command (`leads_softReset`) both leave a
controller that has been reset, and neither run turns the block. -/
theorem controllerResetsForgetTheBlockKeeps : Obligations.ControllerResetsForgetTheBlockKeeps := by
  intro c width height r s i hc hs hi
  obtain rfl | rfl := hi
  · exact ⟨(leads_hardReset r).request (i := .hardReset) hs, run_hardReset_keepsSurface c s⟩
  · exact ⟨(leads_softReset hc r).request (i := .softReset) hs, run_frame_keepsSurface c _ _ s⟩

/-- Settles O51: both requests send one addressing-mode record (`leads_addressing`), and only
`ORIENT` turns the block before it. -/
theorem addressingModeCanLeaveTheBlocksCopy : Obligations.AddressingModeCanLeaveTheBlocksCopy := by
  intro c width height r s hc hs
  refine ⟨fun k q hq => ?_, fun v => ?_⟩
  · obtain rfl := rotationIndex_eq k q hq
    rw [(leads_orient hc k r).request (i := .orient k) hs]
    exact ⟨rfl, rfl, rfl, run_orient_orientation c k s⟩
  · rw [(leads_addressing hc v r).request (i := .writeFrameBoth c.cmdMadctl [v]) hs]
    exact ⟨rfl, run_frame_keepsSurface c _ _ s⟩

/-- Settles O52: `INIT` leads any controller to the one of `leads_init`. -/
theorem initBringsTheControllerBack : Obligations.InitBringsTheControllerBack := by
  intro c width height r s k q hc hs hq
  obtain rfl := rotationIndex_eq k q hq
  exact (leads_init hc k r).request (i := .init k) hs

end Sys2Proof.Proofs.ResetHazards

/-!
PROOFS. Requests and their words (spec/30_encoding.md R51 to R58): the decoder and the encoder are
inverse to each other, and the decoder reads the opcode table. Each row of the table is one `Format`,
and the decoder is said once in terms of them.
-/

namespace Sys2Proof.Proofs.Encoding

open Sys2Proof.Machine Sys2Proof.Safety Sys2Proof.Laws Sys2Proof.Proofs.BusWriter

/-! ### Operand fields (R53) -/

/-- The bits of a field from `k` up are 0. -/
theorem shift_eq_zero_iff (v : Half) (k : Nat) : v >>> k = 0#16 ↔ v.toNat / 2 ^ k = 0 := by
  rw [← BitVec.toNat_inj]
  simp [Nat.shiftRight_eq_div_pow]

theorem zeroAFrom_iff (f : ReqFields) (k : Nat) :
    f.zeroAFrom k = true ↔ f.a.toNat / 2 ^ k = 0 :=
  beq_iff_eq.trans (shift_eq_zero_iff f.a k)

@[simp] theorem byteField_lowA (v : Byte) (op : Byte) (b c d : Half) :
    (ReqFields.mk op (byteField v) b c d).lowA = v := by
  simpa [ReqFields.lowA, byteField] using BitVec.extractLsb'_append_eq_right

@[simp] theorem byteField_zeroAFrom (v : Byte) (op : Byte) (b c d : Half) :
    (ReqFields.mk op (byteField v) b c d).zeroAFrom 8 = true := by
  have := v.isLt
  rw [zeroAFrom_iff, byteField, BitVec.toNat_append]
  simp
  omega

@[simp] theorem bitField_bitA (on : Bit) (op : Byte) (b c d : Half) :
    (ReqFields.mk op (bitField on) b c d).bitA = on := by
  cases on <;> simp [ReqFields.bitA, bitField]

@[simp] theorem bitField_zeroAFrom (on : Bit) (op : Byte) (b c d : Half) :
    (ReqFields.mk op (bitField on) b c d).zeroAFrom 1 = true := by
  cases on <;> simp [ReqFields.zeroAFrom, bitField]

/-- `sext_16` gives a signed operand back. -/
theorem intField_toInt {v : Int} (h : fitsField v = true) : (intField v).toInt = v := by
  simp only [fitsField, Bool.and_eq_true, decide_eq_true_eq] at h
  exact BitVec.toInt_ofInt_eq_self (by decide) (by omega) (by omega)

theorem fitsField_toInt (v : Half) : fitsField v.toInt = true := by
  have hlo := v.le_toInt
  have hhi := v.toInt_lt
  simp only [fitsField, Bool.and_eq_true, decide_eq_true_eq]
  omega

@[simp] theorem intField_of_toInt (v : Half) : intField v.toInt = v := BitVec.ofInt_toInt

/-! ### Decoding an encoded request -/

/-- R53: the command byte is `a[7:0]`. -/
theorem frameFields_lowA (cmd : Option Byte) (data : Option (List Byte)) :
    (frameFields cmd data).lowA = cmd.getD 0 := by
  cases cmd with
  | none => simp [frameFields, ReqFields.lowA]
  | some k => exact BitVec.extractLsb'_append_eq_right

/-- R53: the bits of `a` above `cp` are 0. -/
theorem frameFields_zeroAFrom (cmd : Option Byte) (data : Option (List Byte)) :
    (frameFields cmd data).zeroAFrom 9 = true := by
  rw [zeroAFrom_iff]
  cases cmd with
  | none => simp [frameFields]
  | some k =>
    have := k.isLt
    have ha : (frameFields (some k) data).a.toNat = 2 ^ 8 + k.toNat := by
      change ((1 : Byte) ++ k).toNat = _
      rw [BitVec.toNat_append, Nat.shiftLeft_eq]
      exact (Nat.two_pow_add_eq_or_of_lt this 1).symm
    omega

/-- R53: the bits of `b` above `dp` are 0. -/
theorem frameFields_zeroB (cmd : Option Byte) (data : Option (List Byte)) :
    (frameFields cmd data).b >>> 1 = 0 := by
  cases data <;> simp [frameFields, bitField]

theorem decodeData_append {n : Nat} {ds : List Byte} (h : n = ds.length) (i : List Byte → Instr)
    (rest : List Byte) : decodeData true n i (ds ++ rest) = .ok (i ds, rest) := by
  subst h
  simp [decodeData]

/-- R52, R53: a frame's word gives the frame back, with exactly its payload taken. -/
theorem decodeFrame_frameFields (cmd : Option Byte) (data : Option (List Byte)) (rest : List Byte)
    (h : ∀ ds, data = some ds → fitsCount ds = true) :
    decodeFrame (frameFields cmd data) (data.getD [] ++ rest)
      = .ok (frameRequest cmd data, rest) := by
  simp only [decodeFrame, frameFields_zeroAFrom, frameFields_zeroB, frameFields_lowA,
    frameFields_cp, frameFields_dp]
  cases data with
  | none => cases cmd <;> rfl
  | some ds =>
    have hcount := EncodeLength.count_frameFields cmd ds (h ds rfl)
    cases cmd <;> exact decodeData_append hcount _ rest

/-- Each request's fields decode to it: every operand field gives its operand back. -/
theorem decodeFields_encodeFields (i : Instr) (rest : List Byte) (h : i.wellFormed = true) :
    decodeFields (encodeFields i) (encodePayload i ++ rest) = .ok (i, rest) := by
  cases i with
  | writeFrameNone => exact decodeFrame_frameFields none none rest nofun
  | writeFrameCmd k => exact decodeFrame_frameFields (some k) none rest nofun
  | writeFrameData ds =>
    exact decodeFrame_frameFields none (some ds) rest (by rintro _ ⟨⟩; exact h)
  | writeFrameBoth k ds =>
    exact decodeFrame_frameFields (some k) (some ds) rest (by rintro _ ⟨⟩; exact h)
  | orient r =>
    simp [encodeFields, encodePayload, decodeFields, decodePlain, ReqFields.zeroBCD,
      intField_toInt h]
  | init r =>
    simp [encodeFields, encodePayload, decodeFields, decodePlain, ReqFields.zeroBCD,
      intField_toInt h]
  | setWindow x0 y0 x1 y1 =>
    simp only [Instr.wellFormed, Bool.and_eq_true] at h
    obtain ⟨⟨⟨hx0, hy0⟩, hx1⟩, hy1⟩ := h
    simp [encodeFields, encodePayload, decodeFields, decodePlain, intField_toInt, hx0, hy0, hx1,
      hy1]
  | _ =>
    simp [encodeFields, encodePayload, decodeFields, decodePlain, ReqFields.zeroBCD,
      ReqFields.zeroCD]

/-- Settles O7: the word's fields are the encoder's (`unpack_pack`), and they decode to the request. -/
theorem decodeOfEncodeIsTheRequest : Obligations.DecodeOfEncodeIsTheRequest := by
  intro i rest h
  rw [decode, encode, unpack_pack, decodeFields_encodeFields i rest h]

/-! ### The rows of the opcode table, as the decoder reads them (R53, R54) -/

/-- The fields of a word under the fields of a mask. -/
def maskFields (f m : ReqFields) : ReqFields :=
  ⟨f.op &&& m.op, f.a &&& m.a, f.b &&& m.b, f.c &&& m.c, f.d &&& m.d⟩

/-- How the decoder reads the words of one row of the opcode table. -/
structure Format where
  mnemonic : String
  /-- The row's pattern and mask, field by field. -/
  pattern  : ReqFields
  mask     : ReqFields
  /-- How many payload bytes follow the word. -/
  count    : ReqFields → Nat
  /-- The request, of the word's fields and its payload. -/
  make     : ReqFields → List Byte → Instr

/-- The format's row of the table. -/
def Format.row (m : Format) : TableRow := ⟨m.mnemonic, m.pattern.pack, m.mask.pack⟩

def Format.accepts (m : Format) (f : ReqFields) : Bool := maskFields f m.mask = m.pattern

/-- A row whose words have no payload, all bits of whose pattern but the code are 0. -/
def plainFormat (mnemonic : String) (op : Byte) (a b c d : Half) (make : ReqFields → Instr) :
    Format :=
  ⟨mnemonic, ⟨op, 0, 0, 0, 0⟩, ⟨0xFF, a, b, c, d⟩, fun _ => 0, fun f _ => make f⟩

/-- The 21 rows of the table, in its order; the numbers of `plainFormat` are the masks of the fields. -/
def formats : List Format :=
  [ plainFormat "WRITEBYTE" 0x01 0xFF00 0xFFFF 0xFFFF 0xFFFF fun f => .writeByte f.lowA,
    plainFormat "WRITEFRAME" 0x02 0xFFFF 0xFFFF 0xFFFF 0xFFFF fun _ => .writeFrameNone,
    ⟨"WRITEFRAME", ⟨0x02, 0x0100, 0, 0, 0⟩, ⟨0xFF, 0xFF00, 0xFFFF, 0xFFFF, 0xFFFF⟩,
      fun _ => 0, fun f _ => .writeFrameCmd f.lowA⟩,
    ⟨"WRITEFRAME", ⟨0x02, 0, 1, 0, 0⟩, ⟨0xFF, 0xFFFF, 0xFFFF, 0, 0⟩,
      ReqFields.count, fun _ ds => .writeFrameData ds⟩,
    ⟨"WRITEFRAME", ⟨0x02, 0x0100, 1, 0, 0⟩, ⟨0xFF, 0xFF00, 0xFFFF, 0, 0⟩,
      ReqFields.count, fun f ds => .writeFrameBoth f.lowA ds⟩,
    plainFormat "HARDRESET" 0x10 0xFFFF 0xFFFF 0xFFFF 0xFFFF fun _ => .hardReset,
    plainFormat "SOFTRESET" 0x11 0xFFFF 0xFFFF 0xFFFF 0xFFFF fun _ => .softReset,
    plainFormat "SLEEP" 0x12 0xFFFE 0xFFFF 0xFFFF 0xFFFF fun f => .sleep f.bitA,
    plainFormat "INVERT" 0x13 0xFFFE 0xFFFF 0xFFFF 0xFFFF fun f => .invert f.bitA,
    plainFormat "COLORMODE" 0x14 0xFF00 0xFFFF 0xFFFF 0xFFFF fun f => .colorMode f.lowA,
    plainFormat "ORIENT" 0x15 0 0xFFFF 0xFFFF 0xFFFF fun f => .orient f.a.toInt,
    plainFormat "NORMALON" 0x16 0xFFFF 0xFFFF 0xFFFF 0xFFFF fun _ => .normalOn,
    plainFormat "DISPLAYON" 0x17 0xFFFF 0xFFFF 0xFFFF 0xFFFF fun _ => .displayOn,
    plainFormat "BACKLIGHT" 0x18 0xFFFE 0xFFFF 0xFFFF 0xFFFF fun f => .backlight f.bitA,
    plainFormat "INIT" 0x19 0 0xFFFF 0xFFFF 0xFFFF fun f => .init f.a.toInt,
    plainFormat "CASET" 0x20 0 0 0xFFFF 0xFFFF fun f => .caset f.a f.b,
    plainFormat "RASET" 0x21 0 0 0xFFFF 0xFFFF fun f => .raset f.a f.b,
    plainFormat "RAMWR" 0x22 0xFFFF 0xFFFF 0xFFFF 0xFFFF fun _ => .ramWr,
    plainFormat "SETWINDOW" 0x23 0 0 0 0
      fun f => .setWindow f.a.toInt f.b.toInt f.c.toInt f.d.toInt,
    plainFormat "VSCRDEF" 0x30 0 0 0 0xFFFF fun f => .vscrDef f.a f.b f.c,
    plainFormat "VSCSAD" 0x31 0 0xFFFF 0xFFFF 0xFFFF fun f => .vscSad f.a ]

/-- The formats are those of the opcode table. -/
theorem formats_rows : formats.map Format.row = opcodeTable := by decide

theorem pack_and (f m : ReqFields) : f.pack &&& m.pack = (maskFields f m).pack := by
  apply BitVec.eq_of_getLsbD_eq
  intro k hk
  simp only [ReqFields.pack, maskFields, BitVec.getLsbD_and, BitVec.getLsbD_append]
  grind

/-- A row selects the words whose fields its format accepts. -/
theorem selects_row (m : Format) (w : ReqWord) : m.row.selects w = m.accepts (.unpack w) := by
  have hand : w &&& m.mask.pack = (maskFields (.unpack w) m.mask).pack := by
    conv_lhs => rw [← pack_unpack w]
    exact pack_and _ _
  have hpack : Function.Injective ReqFields.pack := Function.LeftInverse.injective unpack_pack
  rw [TableRow.selects, Format.row, hand, Format.accepts, Bool.eq_iff_iff, beq_iff_eq, hpack.eq_iff,
    decide_eq_true_iff]

/-! The decoder's must-be-zero tests, as masks. -/

@[simp] theorem and_FFFF (v : Half) : v &&& 65535#16 = v := BitVec.and_allOnes

@[simp] theorem and_FF (v : Byte) : v &&& 255#8 = v := BitVec.and_allOnes

/-- The bits from `k` up, in place. -/
theorem toNat_and_upper (v : Half) (k : Nat) :
    (v &&& BitVec.allOnes 16 <<< k).toNat = v.toNat / 2 ^ k * 2 ^ k := by
  rw [← BitVec.shiftLeft_ushiftRight, BitVec.toNat_shiftLeft, BitVec.toNat_ushiftRight,
    Nat.shiftRight_eq_div_pow, Nat.shiftLeft_eq, Nat.mod_eq_of_lt]
  exact lt_of_le_of_lt (Nat.div_mul_le_self _ _) v.isLt

theorem toNat_and_FF00 (v : Half) : (v &&& 0xFF00).toNat = v.toNat / 256 * 256 :=
  toNat_and_upper v 8

theorem toNat_and_FFFE (v : Half) : (v &&& 0xFFFE).toNat = v.toNat / 2 * 2 := toNat_and_upper v 1

theorem zeroAFrom_8 (f : ReqFields) : f.zeroAFrom 8 = decide (f.a &&& 0xFF00 = 0) := by
  rw [Bool.eq_iff_iff, zeroAFrom_iff, decide_eq_true_iff, ← BitVec.toNat_inj, toNat_and_FF00]
  simp

theorem zeroAFrom_1 (f : ReqFields) : f.zeroAFrom 1 = decide (f.a &&& 0xFFFE = 0) := by
  rw [Bool.eq_iff_iff, zeroAFrom_iff, decide_eq_true_iff, ← BitVec.toNat_inj, toNat_and_FFFE]
  simp

/-! The presence bits and the bits around them, as the masks of `WRITEFRAME`'s rows. -/

theorem getElem_iff (v : Half) (k : Nat) (hk : k < 16) : v[k] = true ↔ v.toNat / 2 ^ k % 2 = 1 := by
  rw [← BitVec.getLsbD_eq_getElem, BitVec.getLsbD, Nat.testBit_eq_decide_div_mod_eq,
    decide_eq_true_iff]

theorem cp_set_iff (v : Half) : v &&& 65280#16 = 256#16 ↔ v >>> 9 = 0#16 ∧ v[8] = true := by
  have hand : (v &&& 65280#16).toNat = v.toNat / 256 * 256 := toNat_and_FF00 v
  rw [shift_eq_zero_iff, getElem_iff, ← BitVec.toNat_inj, hand]
  simp
  omega

theorem cp_clear_iff (v : Half) :
    v = 0#16 ↔ v >>> 9 = 0#16 ∧ v.extractLsb' 0 8 = 0#8 ∧ v[8] = false := by
  rw [shift_eq_zero_iff, ← Bool.not_eq_true, getElem_iff, ← BitVec.toNat_inj, ← BitVec.toNat_inj,
    BitVec.extractLsb'_toNat]
  simp
  omega

theorem dp_set_iff (v : Half) : v = 1#16 ↔ v >>> 1 = 0#16 ∧ v[0] = true := by
  rw [shift_eq_zero_iff, getElem_iff, ← BitVec.toNat_inj]
  simp
  omega

theorem dp_clear_iff (v : Half) : v = 0#16 ↔ v >>> 1 = 0#16 ∧ v[0] = false := by
  rw [shift_eq_zero_iff, ← Bool.not_eq_true, getElem_iff, ← BitVec.toNat_inj]
  simp
  omega

theorem eq_ofNat_of_toNat {op : Byte} {n : Nat} (h : op.toNat = n) : op = BitVec.ofNat 8 n := by
  subst h
  simp

/-! The decoder in terms of the formats. -/

/-- How the decoder reads the format's words. -/
def Format.read (m : Format) (f : ReqFields) (stream : List Byte) : Decoded :=
  decodeData true (m.count f) (m.make f) stream

/-- R55: what a format accepts has one of the known codes. -/
theorem op_of_accepts {m : Format} (hm : m ∈ formats) {f : ReqFields} (h : m.accepts f = true) :
    f.op ∈ knownOps := by
  have hops : ∀ m ∈ formats, m.mask.op = 0xFF ∧ m.pattern.op ∈ knownOps := by decide
  obtain ⟨hmask, hop⟩ := hops m hm
  have hf : f.op &&& m.mask.op = m.pattern.op := congrArg ReqFields.op (of_decide_eq_true h)
  rw [hmask] at hf
  exact (and_FF f.op).symm.trans hf ▸ hop

/-- R54: of the four rows of `WRITEFRAME` the presence bits choose one. -/
theorem decodeFrame_eq (a b c d : Half) (stream : List Byte) :
    decodeFrame ⟨0x02, a, b, c, d⟩ stream =
      match formats.find? (·.accepts ⟨0x02, a, b, c, d⟩) with
      | some m => m.read ⟨0x02, a, b, c, d⟩ stream
      | none => .error .reservedBits := by
  simp only [decodeFrame, formats, Format.accepts, plainFormat, maskFields, ReqFields.zeroAFrom,
    ReqFields.lowA]
  cases hcp : a[8] <;> cases hdp : b[0] <;>
    simp [hcp, hdp, List.find?, cp_set_iff a, cp_clear_iff a, dp_set_iff b, dp_clear_iff b,
      Format.read, decodePlain, decodeData, ReqFields.zeroCD, and_assoc, and_left_comm, and_comm,
      -Bool.decide_and]
  -- What is left of either side is one test: all of the row's mask bits agree, or not.
  all_goals split <;> simp [*]

/-- The decoder, said once: the first format that accepts the fields reads the request, and fields no
format accepts are refused by name. -/
theorem decodeFields_eq (f : ReqFields) (stream : List Byte) :
    decodeFields f stream = match formats.find? (·.accepts f) with
      | some m => m.read f stream
      | none => .error (if f.op ∈ knownOps then .reservedBits else .reservedOp) := by
  obtain ⟨op, a, b, c, d⟩ := f
  unfold decodeFields
  split
  case h_2 h =>
    obtain rfl := eq_ofNat_of_toNat h
    exact decodeFrame_eq a b c d stream
  case h_19 =>
    have hop : op ∉ knownOps := by simp_all [knownOps, ← BitVec.toNat_inj]
    have hnone : formats.find? (·.accepts ⟨op, a, b, c, d⟩) = none :=
      List.find?_eq_none.2 fun m hm h => hop (op_of_accepts hm h)
    rw [hnone]
    simp [hop]
  -- Every other code has one row, whose mask is the decoder's must-be-zero test.
  all_goals
    rename_i h
    obtain rfl := eq_ofNat_of_toNat h
    simp [formats, List.find?, Format.accepts, Format.read, plainFormat, maskFields, zeroAFrom_8,
      zeroAFrom_1, ReqFields.zeroBCD, ReqFields.zeroCD, decodePlain, decodeData, knownOps, and_assoc,
      -Bool.decide_and]
  all_goals split <;> simp [*]

/-! ### The rows of the table, one by one -/

/-- Settles O5: a word that two rows select has the bits of both patterns under both masks, and no two
rows of the table agree there. -/
theorem noWordSelectsTwoRows : Obligations.NoWordSelectsTwoRows := by
  have hpatterns : opcodeTable.Pairwise fun r r' =>
      r.pattern &&& r'.mask ≠ r'.pattern &&& r.mask := by decide
  refine hpatterns.imp fun {r r'} hne w hr => ?_
  rw [← Bool.not_eq_true]
  intro hr'
  simp only [TableRow.selects, beq_iff_eq] at hr hr'
  refine hne ?_
  rw [← hr, ← hr', BitVec.and_assoc, BitVec.and_assoc, BitVec.and_comm r.mask]

/-- At most one format accepts a word's fields. -/
theorem find_of_accepts {m : Format} (hm : m ∈ formats) {f : ReqFields} (h : m.accepts f = true) :
    formats.find? (·.accepts f) = some m := by
  have hdisjoint : formats.Pairwise fun m m' => m.accepts f = true → m'.accepts f = false := by
    have htable := noWordSelectsTwoRows
    unfold Obligations.NoWordSelectsTwoRows at htable
    rw [← formats_rows, List.pairwise_map] at htable
    exact htable.imp fun hne hacc => by
      simpa [selects_row] using hne f.pack (by simpa [selects_row] using hacc)
  generalize formats = ms at hm hdisjoint
  induction hdisjoint with
  | nil => simp at hm
  | cons hhead _ ih =>
    obtain rfl | hm := List.mem_cons.1 hm
    · exact List.find?_cons_of_pos h
    · rw [List.find?_cons_of_neg, ih hm]
      intro hacc
      simp [hhead m hm hacc] at h

theorem decodeFields_of_accepts {m : Format} (hm : m ∈ formats) {f : ReqFields}
    (h : m.accepts f = true) (stream : List Byte) : decodeFields f stream = m.read f stream := by
  rw [decodeFields_eq, find_of_accepts hm h]

/-! The operand fields of accepted words are those of their operands. -/

theorem byteField_of_and {op : Byte} {a b c d : Half} (h : a &&& 65280#16 = 0#16) :
    byteField (ReqFields.lowA ⟨op, a, b, c, d⟩) = a := by
  have ha : a.toNat / 256 * 256 = 0 := (toNat_and_FF00 a).symm.trans (congrArg BitVec.toNat h)
  apply BitVec.eq_of_toNat_eq
  rw [byteField, ReqFields.lowA, BitVec.toNat_append, BitVec.extractLsb'_toNat]
  simp
  omega

theorem cpField_of_and {op : Byte} {a b c d : Half} (h : a &&& 65280#16 = 256#16) :
    1#8 ++ ReqFields.lowA ⟨op, a, b, c, d⟩ = a := by
  have ha : a.toNat / 256 * 256 = 256 := (toNat_and_FF00 a).symm.trans (congrArg BitVec.toNat h)
  apply BitVec.eq_of_toNat_eq
  rw [ReqFields.lowA, BitVec.toNat_append, BitVec.extractLsb'_toNat, Nat.shiftLeft_eq]
  refine (Nat.two_pow_add_eq_or_of_lt (Nat.mod_lt _ (Nat.two_pow_pos 8)) 1).symm.trans ?_
  simp
  omega

theorem bitField_of_and {op : Byte} {a b c d : Half} (h : a &&& 65534#16 = 0#16) :
    bitField (ReqFields.bitA ⟨op, a, b, c, d⟩) = a := by
  have ha : a.toNat / 2 * 2 = 0 := (toNat_and_FFFE a).symm.trans (congrArg BitVec.toNat h)
  apply BitVec.eq_of_toNat_eq
  simp only [bitField, ReqFields.bitA, BitVec.getLsbD, Nat.testBit_zero]
  split <;> simp_all <;> omega

theorem bitField_true : bitField true = 1#16 := rfl

theorem bitField_false : bitField false = 0#16 := rfl

theorem count_high (f : ReqFields) : BitVec.ofNat 16 (f.count / 65536) = f.c := by
  have := f.d.isLt
  apply BitVec.eq_of_toNat_eq
  rw [ReqFields.count, BitVec.toNat_ofNat]
  omega

theorem count_low (f : ReqFields) : BitVec.ofNat 16 f.count = f.d := by
  have := f.d.isLt
  apply BitVec.eq_of_toNat_eq
  rw [ReqFields.count, BitVec.toNat_ofNat]
  omega

/-- R52: the count has 32 bits. -/
theorem count_lt (f : ReqFields) : f.count < 4294967296 := by
  have hc := f.c.isLt
  have hd := f.d.isLt
  rw [ReqFields.count]
  omega

/-- A format's request, of accepted fields and a payload of the length they count: well formed, of
the row's mnemonic, and encoded in those fields and that payload. -/
theorem make_spec {m : Format} (hm : m ∈ formats) {f : ReqFields} (h : m.accepts f = true)
    {ds : List Byte} (hds : ds.length = m.count f) :
    mnemonicOf (m.make f ds) = m.mnemonic ∧ (m.make f ds).wellFormed = true ∧
      encodeFields (m.make f ds) = f ∧ encodePayload (m.make f ds) = ds := by
  obtain ⟨op, a, b, c, d⟩ := f
  revert m
  simp only [formats, List.forall_mem_cons, Format.accepts, plainFormat, decide_eq_true_iff,
    maskFields, ReqFields.mk.injEq]
  and_intros
  all_goals
    simp +contextual [mnemonicOf, Instr.wellFormed, fitsField_toInt, fitsCount, count_lt,
      encodeFields, encodePayload, frameFields, byteField_of_and, cpField_of_and, bitField_of_and,
      bitField_true, bitField_false, count_high, count_low]

/-! ### What decodes -/

/-- R58: the count is read from the word alone. -/
theorem payloadLength_encode (i : Instr) : EncodeLength.Statement i := by
  cases i with
  | writeByte b => exact EncodeLength.writeByte b
  | writeFrameNone => exact EncodeLength.writeFrameNone
  | writeFrameCmd k => exact EncodeLength.writeFrameCmd k
  | writeFrameData ds => exact EncodeLength.writeFrameData ds
  | writeFrameBoth k ds => exact EncodeLength.writeFrameBoth k ds
  | hardReset => exact EncodeLength.hardReset
  | softReset => exact EncodeLength.softReset
  | sleep on => exact EncodeLength.sleep on
  | invert on => exact EncodeLength.invert on
  | colorMode m => exact EncodeLength.colorMode m
  | orient r => exact EncodeLength.orient r
  | normalOn => exact EncodeLength.normalOn
  | displayOn => exact EncodeLength.displayOn
  | backlight on => exact EncodeLength.backlight on
  | init r => exact EncodeLength.init r
  | caset xs xe => exact EncodeLength.caset xs xe
  | raset ys ye => exact EncodeLength.raset ys ye
  | ramWr => exact EncodeLength.ramWr
  | setWindow x0 y0 x1 y1 => exact EncodeLength.setWindow x0 y0 x1 y1
  | vscrDef tfa vsa bfa => exact EncodeLength.vscrDef tfa vsa bfa
  | vscSad off => exact EncodeLength.vscSad off

/-- R58: the payload length of a word is the count of the format that accepts it. -/
theorem payloadLength_of_accepts {m : Format} (hm : m ∈ formats) {w : ReqWord}
    (h : m.accepts (.unpack w) = true) : payloadLength w = m.count (.unpack w) := by
  obtain ⟨-, hwf, hfields, hpayload⟩ :=
    make_spec hm h (ds := List.replicate (m.count (.unpack w)) 0) List.length_replicate
  have hlen := payloadLength_encode _ hwf
  rwa [encode, hfields, hpayload, pack_unpack, List.length_replicate] at hlen

theorem read_of_short {m : Format} {f : ReqFields} {stream : List Byte}
    (h : stream.length < m.count f) : m.read f stream = .error .payloadMissing := by
  simp [Format.read, decodeData, h]

theorem read_of_whole {m : Format} {f : ReqFields} {stream : List Byte}
    (h : m.count f ≤ stream.length) :
    m.read f stream
      = .ok (m.make f (stream.take (m.count f)), stream.drop (m.count f)) := by
  simp [Format.read, decodeData, h]

/-- What decodes is read by a format that accepts the word, with its payload all there. -/
theorem decode_ok {w : ReqWord} {stream : List Byte} {i : Instr} {rest : List Byte}
    (h : decode w stream = .ok (i, rest)) :
    ∃ m ∈ formats, m.accepts (.unpack w) = true ∧ m.count (.unpack w) ≤ stream.length ∧
      i = m.make (.unpack w) (stream.take (m.count (.unpack w))) ∧
      rest = stream.drop (m.count (.unpack w)) := by
  rw [decode, decodeFields_eq] at h
  cases hfind : formats.find? (·.accepts (.unpack w)) with
  | none => simp [hfind] at h
  | some m =>
    simp only [hfind] at h
    obtain hshort | hwhole := Nat.lt_or_ge stream.length (m.count (.unpack w))
    · simp [read_of_short hshort] at h
    · rw [read_of_whole hwhole] at h
      injection h with h
      injection h with hi hrest
      exact ⟨m, List.mem_of_find?_eq_some hfind, by simpa using List.find?_some hfind, hwhole,
        hi.symm, hrest.symm⟩

/-- Settles O8: the format that read the word makes a request that is encoded in the word's fields
(`make_spec`). -/
theorem encodeOfDecodeIsTheWord : Obligations.EncodeOfDecodeIsTheWord := by
  intro w stream i rest h
  obtain ⟨m, hm, hacc, hle, rfl, rfl⟩ := decode_ok h
  obtain ⟨-, hwf, hfields, hpayload⟩ := make_spec hm hacc (List.length_take_of_le hle)
  refine ⟨hwf, ?_, ?_⟩
  · rw [encode, hfields, pack_unpack]
  · rw [encode, hpayload, List.take_append_drop]

/-- Settles O9: the format's count is the word's payload length (`payloadLength_of_accepts`). -/
theorem decoderConsumesExactlyThePayload : Obligations.DecoderConsumesExactlyThePayload := by
  intro w stream i rest h
  obtain ⟨m, hm, hacc, hle, -, hrest⟩ := decode_ok h
  rw [payloadLength_of_accepts hm hacc]
  exact ⟨hle, hrest⟩

/-- A row of the table that selects a word is that of a format that accepts it. -/
theorem exists_format {row : TableRow} (hrow : row ∈ opcodeTable) {w : ReqWord}
    (h : row.selects w = true) :
    ∃ m ∈ formats, m.row = row ∧ m.accepts (.unpack w) = true := by
  rw [← formats_rows] at hrow
  obtain ⟨m, hm, rfl⟩ := List.mem_map.1 hrow
  exact ⟨m, hm, rfl, selects_row m w ▸ h⟩

theorem row_mem {m : Format} (hm : m ∈ formats) : m.row ∈ opcodeTable :=
  formats_rows ▸ List.mem_map_of_mem hm

/-- Settles O6: formats and rows are the same, and so are their mnemonics (`make_spec`). -/
theorem decoderReadsTheOpcodeTable : Obligations.DecoderReadsTheOpcodeTable := by
  refine ⟨fun w stream i rest h => ?_, fun w stream row hrow hsel hle => ?_⟩
  · obtain ⟨m, hm, hacc, hle, rfl, -⟩ := decode_ok h
    obtain ⟨hmnemonic, -⟩ := make_spec hm hacc (List.length_take_of_le hle)
    exact ⟨m.row, row_mem hm, (selects_row m w).trans hacc, hmnemonic.symm⟩
  · obtain ⟨m, hm, rfl, hacc⟩ := exists_format hrow hsel
    rw [payloadLength_of_accepts hm hacc] at hle
    obtain ⟨hmnemonic, -⟩ := make_spec hm hacc (List.length_take_of_le hle)
    exact ⟨_, _, (decodeFields_of_accepts hm hacc stream).trans (read_of_whole hle), hmnemonic⟩

/-! ### The next request of a step -/

/-- R55: what the decoder rejects the step refuses. -/
theorem step_of_reject {s : State} {w : ReqWord} {words : List ReqWord} {e : Reject}
    (hs : s.requests = w :: words) (h : decode w s.payload = .error e) :
    step s = .refused (refusalOf e) := by
  simp [step, fetch, hs, h]

/-- Settles O3: no format accepts the word, so the decoder rejects it by name (`decodeFields_eq`). -/
theorem reservedWordIsRefused : Obligations.ReservedWordIsRefused := by
  intro s w words hs hnone
  have hfind : formats.find? (·.accepts (.unpack w)) = none :=
    List.find?_eq_none.2 fun m hm hacc => by
      simp [← selects_row, hnone m.row (row_mem hm)] at hacc
  rw [step_of_reject hs (by rw [decode, decodeFields_eq, hfind])]
  change Host.Outcome.refused (refusalOf (if w.extractLsb' 64 8 ∈ knownOps then _ else _)) = _
  split <;> rfl

/-- Settles O4: the format of the row reads the word and misses its payload (`read_of_short`). -/
theorem shortPayloadIsRefused : Obligations.ShortPayloadIsRefused := by
  rintro s w words hs ⟨row, hrow, hsel⟩ hshort
  obtain ⟨m, hm, -, hacc⟩ := exists_format hrow hsel
  rw [payloadLength_of_accepts hm hacc] at hshort
  exact step_of_reject hs ((decodeFields_of_accepts hm hacc _).trans (read_of_short hshort))

/-- Settles O1: the request is taken with its word and payload, and `exec` performs it. -/
theorem stepRunsTheDecodedRequest : Obligations.StepRunsTheDecodedRequest := by
  intro s w words i rest hs h
  simp only [step, fetch, hs, h]
  rfl

/-- Settles O2: nothing is fetched. -/
theorem idleStepChangesNothing : Obligations.IdleStepChangesNothing := by
  intro s hs
  simp [step, fetch, hs]

/-- Settles O10: each word is evaluated. -/
theorem specWordsDecode : Obligations.SpecWordsDecode := by
  refine ⟨?_, ?_, ?_, ?_, ?_, ?_, ?_, ?_⟩ <;> decide

end Sys2Proof.Proofs.Encoding

/-!
PROOFS. The block's invariants (spec/10_state.md R14 to R22): every step appends events, the wires are
their replay (spec/20_memory.md R31, R32), and what R16, R18, R20 and R21 say holds between requests.
-/

namespace Sys2Proof.Proofs.Invariants

open Sys2Proof.Machine Sys2Proof.Safety Sys2Proof.Laws Sys2Proof.Proofs.BusWriter

/-! ### The wires as a replay of the trace (R19, R20) -/

theorem replay_append (c : Config) (u : Wires) (es fs : List Event) :
    u.replay c (es ++ fs) = (u.replay c es).replay c fs := List.foldl_append

/-- `t` follows `s` by events whose replay gives its wires. -/
def Replays (c : Config) (s t : State) : Prop :=
  ∃ es, t.trace = s.trace ++ es ∧ wiresOf t = (wiresOf s).replay c es

theorem Replays.refl (c : Config) (s : State) : Replays c s s := ⟨[], by simp, rfl⟩

theorem Replays.trans {c : Config} {s t u : State} (h : Replays c s t) (h' : Replays c t u) :
    Replays c s u := by
  obtain ⟨es, htr, hw⟩ := h
  obtain ⟨es', htr', hw'⟩ := h'
  exact ⟨es ++ es', by rw [htr', htr, List.append_assoc], by rw [hw', hw, replay_append]⟩

theorem drive_replays (c : Config) (s : State) (l : Line) (v : Bit) :
    Replays c s (s.drive l v) := ⟨[.line l v], s.drive_trace l v, by cases l <;> rfl⟩

theorem memWrite_replays (c : Config) (s : State) (r : GpioReg) (w : Word) :
    Replays c s (s.memWrite r w) := ⟨[.write r w], s.memWrite_trace r w, by cases r <;> rfl⟩

theorem strobe_replays (c : Config) (s : State) : Replays c s (s.strobe c) :=
  ⟨[.strobe], rfl, rfl⟩

/-- R31: the four register writes one after another. -/
theorem writeWords_replays (c : Config) (s : State) (m : MaskEntry) :
    Replays c s (s.writeWords m) :=
  (memWrite_replays c s .setLo m.setLo).trans <| (memWrite_replays c _ .setHi m.setHi).trans <|
    (memWrite_replays c _ .clrLo m.clrLo).trans (memWrite_replays c _ .clrHi m.clrHi)

theorem writeByte_replays (c : Config) (s : State) (b : Byte) : Replays c s (s.writeByte c b) := by
  unfold State.writeByte
  split
  · exact strobe_replays c s
  · exact (writeWords_replays c s _).trans (strobe_replays c _)

theorem perform_replays (c : Config) (s : State) (a : Act) : Replays c s (perform c s a) := by
  cases a with
  | line l v => exact drive_replays c s l v
  | byte b => exact writeByte_replays c s b
  | delay t => exact ⟨[.delay t], rfl, rfl⟩
  | turn q => exact Replays.refl c s

/-- Settles O14: every action replays (`perform_replays`), and taking a request touches no wire. -/
theorem wiresAreTheReplayOfTheTrace : Obligations.WiresAreTheReplayOfTheTrace := fun s _ h =>
  step_keeps (Replays Config.chip s) (fun _ _ _ hs => hs)
    (fun t a ht => ht.trans (perform_replays Config.chip t a)) h (.refl Config.chip s)

/-! ### Chip select between requests (R18, R86) -/

/-- The level of chip select is the last one driven. -/
theorem replay_cs (c : Config) (u : Wires) (es : List Event) :
    (u.replay c es).cs = (lineLevels .cs es).getLastD u.cs := by
  induction es generalizing u with
  | nil => rfl
  | cons e es ih =>
    have hsee : (u.replay c (e :: es)).cs = (lineLevels .cs es).getLastD (u.see c e).cs := ih _
    rw [hsee]
    cases e with
    | write r w => cases r <;> rfl
    | strobe => rfl
    | delay t => rfl
    | line l v => cases l <;> simp [lineLevels, Wires.see, List.getLastD_cons,
        -List.getLastD_eq_getLast?]

/-- Low, high, low, high, ... ends high. -/
theorem getLastD_of_lowHighPairs {vs : List Bit} (h : lowHighPairs vs = true) :
    vs.getLastD true = true := by
  induction vs using lowHighPairs.induct with
  | case1 => rfl
  | case2 vs ih => rw [List.getLastD_cons, List.getLastD_cons, ih h]
  | case3 vs h1 h2 => simp [lowHighPairs] at h

/-- R86: every step drives chip select low, high, low, high, ... -/
theorem step_brackets {s t : State} (h : step s = .next t) :
    ∃ es, t.trace = s.trace ++ es ∧ lowHighPairs (lineLevels .cs es) = true := by
  obtain ⟨-, rfl⟩ | ⟨_, _, i, _, -, -, he⟩ := step_cases h
  · exact ⟨[], by simp, rfl⟩
  · obtain ⟨-, hrequest, -⟩ := chipSelectBracketsEveryFrame
    obtain ⟨es, -, htr, hes, -⟩ := hrequest i _ t he
    exact ⟨es, htr, hes⟩

/-- R18: chip select is high after a step from a state in which it was. -/
theorem step_idle {s t : State} (h : step s = .next t) (hs : ChipSelectIdle s) :
    ChipSelectIdle t := by
  obtain ⟨es, htr, hes⟩ := step_brackets h
  obtain ⟨es', htr', hw⟩ := wiresAreTheReplayOfTheTrace s t h
  obtain rfl : es = es' := List.append_cancel_left (htr.symm.trans htr')
  have hcs : t.cs = (lineLevels .cs es).getLastD s.cs :=
    (congrArg Wires.cs hw).trans (replay_cs Config.chip (wiresOf s) es)
  rw [ChipSelectIdle, hcs, hs]
  exact getLastD_of_lowHighPairs hes

/-! ### The invariant of the block -/

theorem perform_invLast (c : Config) (s : State) (a : Act) (h : InvLast c s) :
    InvLast c (perform c s a) := run_invLast c [a] s h

/-- R16: only the state writes of `ORIENT` touch orientation and sizes, and they set all three. -/
theorem perform_sizes (c : Config) (s : State) (a : Act) (h : SizesFollowOrientation s) :
    SizesFollowOrientation (perform c s a) := by
  cases a with
  | turn q => exact ⟨rfl, rfl⟩
  | line l v => simpa [SizesFollowOrientation] using h
  | byte b => simpa [SizesFollowOrientation] using h
  | delay t => exact h

/-- R20: one latched entry a strobe is kept by what appends entries and strobes alike. -/
theorem oneLatchPerStrobe_of_extends {s t : State} (h : Extends s t) (hs : OneLatchPerStrobe s) :
    OneLatchPerStrobe t := by
  obtain ⟨es, ls, htr, hla, hlen⟩ := h
  rw [OneLatchPerStrobe, strobeCount] at hs ⊢
  rw [htr, hla, List.length_append, List.countP_append, hs, hlen, strobeCount]

theorem step_extends {s t : State} (h : step s = .next t) : Extends s t :=
  step_keeps (Extends s) (fun _ _ _ hs => hs)
    (fun t a ht => ht.trans (perform_extends Config.chip t a)) h (.refl s)

/-- Settles O13: `INV_LAST` and the sizes are kept action by action, chip select and the latches by
what a step appends (`step_idle`, `step_brackets`, `step_extends`). -/
theorem stepKeepsBlockInvariant : Obligations.StepKeepsBlockInvariant := by
  rintro s t ⟨hlast, hsizes, hidle, hbrackets, hlatches⟩ h
  refine ⟨?_, ?_, step_idle h hidle, ?_, oneLatchPerStrobe_of_extends (step_extends h) hlatches⟩
  · exact step_keeps (InvLast Config.chip) (fun s _ _ hs => invLast_congr hs rfl rfl rfl)
      (perform_invLast Config.chip) h hlast
  · exact step_keeps SizesFollowOrientation (fun _ _ _ hs => hs) (perform_sizes Config.chip) h hsizes
  · obtain ⟨es, htr, hes⟩ := step_brackets h
    rw [ChipSelectBrackets, htr, lineLevels_append]
    exact lowHighPairs_append hbrackets hes

/-! ### Reset (R23) -/

/-- Settles O11. -/
theorem resetStateIsAsStated : Obligations.ResetStateIsAsStated :=
  ⟨rfl, rfl, rfl, rfl, rfl, rfl, rfl, rfl, rfl, rfl⟩

/-- Settles O12: no byte is recorded, no event and no latch are there. -/
theorem resetMeetsBlockInvariant : Obligations.ResetMeetsBlockInvariant :=
  ⟨nofun, ⟨rfl, rfl⟩, rfl, rfl, rfl⟩

/-! ### The GPIOs that are no data pins (R17) -/

/-- Putting a byte on the data pins leaves the other GPIOs of both banks. -/
theorem latchesWith_outside (c : Config) (lo hi : Word) (v : Byte) :
    latchesWith (fullLo c) (setLo c) lo (some v) &&& ~~~(fullLo c) = lo &&& ~~~(fullLo c) ∧
    latchesWith (fullHi c) (setHi c) hi (some v) &&& ~~~(fullHi c) = hi &&& ~~~(fullHi c) := by
  apply pair_ext
  intro p
  simp only [latchesWith, pairBit_and, pairBit_or, pairBit_not]
  obtain ⟨i, rfl⟩ | ⟨hf, hs⟩ := pin_or_clear c p
  · simp
  · simp [hf, hs]

/-- `t` has the latches of `s` outside the data pins. -/
def KeepsOtherGpios (c : Config) (s t : State) : Prop :=
  t.outLo &&& ~~~(fullLo c) = s.outLo &&& ~~~(fullLo c) ∧
  t.outHi &&& ~~~(fullHi c) = s.outHi &&& ~~~(fullHi c)

theorem writeByte_keepsOtherGpios (c : Config) (s : State) (b : Byte) :
    KeepsOtherGpios c s (s.writeByte c b) := by
  by_cases h : s.last = some b
  · rw [writeByte_repeated c s b h]
    exact ⟨rfl, rfl⟩
  · rw [writeByte_fresh c s b h]
    exact latchesWith_outside c s.outLo s.outHi b

theorem perform_keepsOtherGpios (c : Config) (s : State) (a : Act) :
    KeepsOtherGpios c s (perform c s a) := by
  cases a with
  | byte b => exact writeByte_keepsOtherGpios c s b
  | line l v => simp [KeepsOtherGpios]
  | delay t => exact ⟨rfl, rfl⟩
  | turn q => exact ⟨rfl, rfl⟩

/-- Settles O15: only a byte writes the latches, and it keeps those outside the data pins. -/
theorem otherGpiosAreNeverChanged : Obligations.OtherGpiosAreNeverChanged := fun s _ h =>
  step_keeps (KeepsOtherGpios Config.chip s) (fun _ _ _ hs => hs)
    (fun t a ht => by
      obtain ⟨hlo, hhi⟩ := ht
      obtain ⟨hlo', hhi'⟩ := perform_keepsOtherGpios Config.chip t a
      exact ⟨hlo'.trans hlo, hhi'.trans hhi⟩) h ⟨rfl, rfl⟩

end Sys2Proof.Proofs.Invariants

/-!
PROOFS. The mask table (spec/40_mask_table.md R71 to R73): the set and clear words of a byte at every
GPIO, and how they divide the data pins.
-/

namespace Sys2Proof.Proofs.Mask

open Sys2Proof.Machine Sys2Proof.Safety Sys2Proof.Laws

@[simp] theorem pairBit_zero (p : Fin 64) : pairBit 0#32 0#32 p = false := by
  simp [pairBit]

/-- R71: the set words hold a 1 exactly at the data pins whose bit is 1. -/
theorem set_bit_iff (c : Config) (v : Byte) (p : Fin 64) :
    pairBit (setLo c v) (setHi c v) p = true ↔ ∃ i : Fin 8, c.pin i = p ∧ v.getLsbD i.val = true := by
  obtain ⟨i, rfl⟩ | ⟨-, hs⟩ := pin_or_clear c p
  · simp
  · simp only [hs, Bool.false_eq_true, false_iff]
    rintro ⟨i, rfl, hi⟩
    rw [← set_bit_pin c v i, hs v] at hi
    cases hi

/-- R72: the clear words hold a 1 exactly at the data pins whose bit is 0. -/
theorem clear_bit_iff (c : Config) (v : Byte) (p : Fin 64) :
    pairBit (maskFor c v).clrLo (maskFor c v).clrHi p = true
      ↔ ∃ i : Fin 8, c.pin i = p ∧ v.getLsbD i.val = false := by
  simp only [maskFor, pairBit_xor]
  obtain ⟨i, rfl⟩ | ⟨hf, hs⟩ := pin_or_clear c p
  · simp
  · simp only [hf, hs, Bool.false_bne, Bool.false_eq_true, false_iff]
    rintro ⟨i, rfl, -⟩
    simp at hf

/-- Settles O16: the words at a GPIO are `set_bit_iff` and `clear_bit_iff`. -/
theorem maskWordsPerGpio : Obligations.MaskWordsPerGpio := fun c v p =>
  ⟨set_bit_iff c v p, clear_bit_iff c v p⟩

/-! ### The properties of every entry (R73) -/

/-- Bit `k` of a pair of words, the low word first, is 1. -/
def pairHas (lo hi : Word) (k : Nat) : Bool :=
  if k < 32 then lo.getLsbD k else hi.getLsbD (k - 32)

/-- The 1 bits of a pair of words are counted over the 64 GPIOs. -/
theorem popcount_add (lo hi : Word) :
    popcount lo + popcount hi = Nat.count (pairHas lo hi · = true) 64 := by
  rw [show 64 = 32 + 32 from rfl, Nat.count_add]
  simp only [popcount, Nat.count]
  congr 1 <;> refine List.countP_congr fun k hk => ?_
  · simp [pairHas, List.mem_range.1 hk]
  · simp [pairHas]

/-- R73: `FULL` has eight 1 bits, one for each pin of the injective `PINMAP`. -/
theorem popcount_full (c : Config) : popcount (fullLo c) + popcount (fullHi c) = 8 := by
  have hpins : (Finset.range 64).filter (pairHas (fullLo c) (fullHi c) · = true)
      = Finset.univ.image (Fin.val ∘ c.pin) := by
    ext k
    simp only [Finset.mem_filter, Finset.mem_range, Finset.mem_image, Finset.mem_univ, true_and,
      Function.comp_apply]
    constructor
    · rintro ⟨hk, hbit⟩
      obtain ⟨i, hi, -⟩ := (set_bit_iff c 255 ⟨k, hk⟩).1 hbit
      exact ⟨i, congrArg Fin.val hi⟩
    · rintro ⟨i, rfl⟩
      exact ⟨(c.pin i).isLt, full_bit_pin c i⟩
  rw [popcount_add, Nat.count_eq_card_filter_range, hpins,
    Finset.card_image_of_injective _ (Fin.val_injective.comp (pin_injective c)), Finset.card_univ,
    Fintype.card_fin]

/-- R73: set and clear words are disjoint. -/
theorem set_and_clear (c : Config) (v : Byte) :
    (maskFor c v).setLo &&& (maskFor c v).clrLo = 0 ∧
    (maskFor c v).setHi &&& (maskFor c v).clrHi = 0 := by
  apply pair_ext
  intro p
  simp only [maskFor, pairBit_and, pairBit_xor]
  obtain ⟨i, rfl⟩ | ⟨-, hs⟩ := pin_or_clear c p
  · simp
  · simp [hs]

/-- R73: together they are `FULL`. -/
theorem set_or_clear (c : Config) (v : Byte) :
    (maskFor c v).setLo ||| (maskFor c v).clrLo = fullLo c ∧
    (maskFor c v).setHi ||| (maskFor c v).clrHi = fullHi c := by
  apply pair_ext
  intro p
  simp only [maskFor, pairBit_or, pairBit_xor]
  obtain ⟨i, rfl⟩ | ⟨hf, hs⟩ := pin_or_clear c p
  · simp
  · simp [hf, hs]

/-- R73: the set words lie within `FULL`. -/
theorem set_within_full (c : Config) (v : Byte) :
    (maskFor c v).setLo &&& ~~~(fullLo c) = 0 ∧ (maskFor c v).setHi &&& ~~~(fullHi c) = 0 := by
  apply pair_ext
  intro p
  simp only [maskFor, pairBit_and, pairBit_not]
  obtain ⟨i, rfl⟩ | ⟨-, hs⟩ := pin_or_clear c p
  · simp
  · simp [hs]

/-- R73: the set words tell the byte. -/
theorem set_injective (c : Config) {v v' : Byte} (hlo : setLo c v = setLo c v')
    (hhi : setHi c v = setHi c v') : v = v' := by
  apply BitVec.eq_of_getLsbD_eq
  intro k hk
  rw [← set_bit_pin c v ⟨k, hk⟩, ← set_bit_pin c v' ⟨k, hk⟩, hlo, hhi]

/-- Settles O17: the properties one by one. -/
theorem maskEntriesPartitionTheDataPins : Obligations.MaskEntriesPartitionTheDataPins := by
  intro c v
  obtain ⟨hlo, hhi⟩ := set_and_clear c v
  obtain ⟨hlo', hhi'⟩ := set_or_clear c v
  obtain ⟨hlo'', hhi''⟩ := set_within_full c v
  exact ⟨hlo, hhi, hlo', hhi', hlo'', hhi'', popcount_full c, fun v' => set_injective c⟩

end Sys2Proof.Proofs.Mask

/-!
PROOFS. Which actions a request is made of, and so which fields it writes (spec/10_state.md R14, R22)
and how often it delays (spec/42_controller_protocol.md R114).
-/

namespace Sys2Proof.Proofs.WhoWritesWhat

open Sys2Proof.Machine Sys2Proof.Safety Sys2Proof.Laws Sys2Proof.Proofs.ResetHazards

/-! ### What a run of given actions leaves alone -/

/-- R22: no action touches the host's side. -/
theorem run_hostSide (c : Config) (as : List Act) (s : State) :
    (run c as s).requests = s.requests ∧ (run c as s).payload = s.payload :=
  run_keeps c (fun t => t.requests = s.requests ∧ t.payload = s.payload) as
    (fun t a _ ht => by cases a <;> simpa using ht) s ⟨rfl, rfl⟩

/-- The level of a line. -/
def level (s : State) : Line → Bit
  | .cs => s.cs
  | .dc => s.dc
  | .rst => s.rst
  | .bl => s.bl

/-- R22: only an action on a line touches it. -/
theorem run_level (c : Config) (l : Line) (as : List Act) (s : State)
    (h : ∀ v, Act.line l v ∉ as) : level (run c as s) l = level s l :=
  run_keeps c (fun t => level t l = level s l) as
    (fun t a ha ht => by
      rw [← ht]
      cases a with
      | line l' v =>
        have hl : l' ≠ l := by
          rintro rfl
          exact h v ha
        cases l <;> simp [level, hl]
      | byte b => cases l <;> simp [level]
      | delay d => rfl
      | turn q => cases l <;> rfl) s rfl

/-- R14: no action forgets the last byte. -/
theorem run_last_ne_none (c : Config) (as : List Act) (s : State) (h : s.last ≠ none) :
    (run c as s).last ≠ none :=
  run_keeps c (fun t => t.last ≠ none) as (fun t a _ ht => by cases a <;> simp [ht]) s h

/-! ### The actions of the requests -/

/-- What frames are made of: chip select, the command/data line and bytes (R84). -/
def frameAct : Act → Bool
  | .line .cs _ => true
  | .line .dc _ => true
  | .line .rst _ => false
  | .line .bl _ => false
  | .byte _ => true
  | .delay _ => false
  | .turn _ => false

/-- Only what frames are made of. -/
def OfFrames (as : List Act) : Prop := ∀ a ∈ as, frameAct a = true

theorem OfFrames.append {as bs : List Act} (h : OfFrames as) (h' : OfFrames bs) :
    OfFrames (as ++ bs) := fun a ha => (List.mem_append.1 ha).elim (h a) (h' a)

theorem ofFrames_frame (cmd : Option Byte) (data : Option (List Byte)) :
    OfFrames (frame cmd data) := by
  cases cmd <;> cases data <;>
    simp [OfFrames, frame, commandPart, dataPart, frameAct, or_imp, forall_and]

theorem ofFrames_setWindow (c : Config) (width height : Nat) (x0 y0 x1 y1 : Int) :
    OfFrames (setWindowActions c width height x0 y0 x1 y1) := by
  unfold setWindowActions
  split
  · exact ((ofFrames_frame _ _).append (ofFrames_frame _ _)).append (ofFrames_frame _ _)
  · simp [OfFrames]

/-- The requests that do more than send bytes. -/
def BeyondFrames (i : Instr) : Prop :=
  i = .hardReset ∨ (∃ on, i = .backlight on) ∨ (∃ r, i = .orient r) ∨ ∃ r, i = .init r

theorem ofFrames_actionsOf (c : Config) (width height : Nat) (i : Instr) (h : ¬ BeyondFrames i) :
    OfFrames (actionsOf c width height i) := by
  cases i with
  | writeByte b => simp [OfFrames, actionsOf, frameAct]
  | setWindow x0 y0 x1 y1 => exact ofFrames_setWindow c width height x0 y0 x1 y1
  | hardReset => exact absurd (.inl rfl) h
  | backlight on => exact absurd (.inr (.inl ⟨on, rfl⟩)) h
  | orient r => exact absurd (.inr (.inr (.inl ⟨r, rfl⟩))) h
  | init r => exact absurd (.inr (.inr (.inr ⟨r, rfl⟩))) h
  | _ => exact ofFrames_frame _ _

theorem OfFrames.not_mem {as : List Act} (h : OfFrames as) {a : Act} (ha : frameAct a = false) :
    a ∉ as := fun hmem => by simp [h a hmem] at ha

/-! ### Which requests drive the reset line and the backlight, and which turn (R22) -/

theorem no_turn_actionsOf (c : Config) (width height : Nat) (i : Instr)
    (h : ∀ r, i ≠ .orient r ∧ i ≠ .init r) (q : Fin 4) :
    Act.turn q ∉ actionsOf c width height i := by
  by_cases hi : BeyondFrames i
  · obtain rfl | ⟨on, rfl⟩ | ⟨r, rfl⟩ | ⟨r, rfl⟩ := hi
    · simp [actionsOf, hardResetActions]
    · simp [actionsOf, backlightActions]
    · exact absurd rfl (h r).1
    · exact absurd rfl (h r).2
  · exact (ofFrames_actionsOf c width height i hi).not_mem rfl

theorem no_rst_actionsOf (c : Config) (width height : Nat) (i : Instr)
    (h : ∀ r, i ≠ .hardReset ∧ i ≠ .init r) (v : Bit) :
    Act.line .rst v ∉ actionsOf c width height i := by
  by_cases hi : BeyondFrames i
  · obtain rfl | ⟨on, rfl⟩ | ⟨r, rfl⟩ | ⟨r, rfl⟩ := hi
    · exact absurd rfl (h 0).1
    · simp [actionsOf, backlightActions]
    · simpa [actionsOf, orientActions] using (ofFrames_frame _ _).not_mem (a := .line .rst v) rfl
    · exact absurd rfl (h r).2
  · exact (ofFrames_actionsOf c width height i hi).not_mem rfl

theorem no_bl_actionsOf (c : Config) (width height : Nat) (i : Instr)
    (h : ∀ on r, i ≠ .backlight on ∧ i ≠ .init r) (v : Bit) :
    Act.line .bl v ∉ actionsOf c width height i := by
  by_cases hi : BeyondFrames i
  · obtain rfl | ⟨on, rfl⟩ | ⟨r, rfl⟩ | ⟨r, rfl⟩ := hi
    · simp [actionsOf, hardResetActions]
    · exact absurd rfl (h on 0).1
    · simpa [actionsOf, orientActions] using (ofFrames_frame _ _).not_mem (a := .line .bl v) rfl
    · exact absurd rfl (h false r).2
  · exact (ofFrames_actionsOf c width height i hi).not_mem rfl

/-! ### The two requests that drive one line (R100, R111) -/

/-- Settles O27: six actions on the reset line and time. -/
theorem hardResetPulsesTheLine : Obligations.HardResetPulsesTheLine := by
  intro s
  simp [exec_runs_actions, actionsOf, hardResetActions, State.drive, State.emit, Config.tRstLow,
    Config.tRstHigh, Config.tRstSettle]

/-- Settles O33: one action on the backlight line. -/
theorem backlightDrivesItsLine : Obligations.BacklightDrivesItsLine := fun _ _ => rfl

/-- R22: both leave the last byte, the pins, the other lines and the latched list. -/
theorem exec_hardReset_or_backlight {i : Instr} {s t : State} (he : exec i s = .next t)
    (hi : i = .hardReset ∨ ∃ on, i = .backlight on) :
    t.last = s.last ∧ t.outLo = s.outLo ∧ t.outHi = s.outHi ∧ t.cs = s.cs ∧ t.dc = s.dc
      ∧ t.latched = s.latched := by
  obtain rfl | ⟨on, rfl⟩ := hi
  · rw [hardResetPulsesTheLine s] at he
    injection he with he
    subst he
    exact ⟨rfl, rfl, rfl, rfl, rfl, rfl⟩
  · rw [backlightDrivesItsLine on s] at he
    injection he with he
    subst he
    exact ⟨rfl, rfl, rfl, rfl, rfl, rfl⟩

/-! ### The tables of R22 and R14 -/

/-- Settles O44: each field is left alone by a run without the actions that write it. -/
theorem onlyTheNamedRequestsWriteEachField : Obligations.OnlyTheNamedRequestsWriteEachField := by
  intro i s t he
  refine ⟨?_, fun hi => ?_, fun hi => ?_, fun hi => ?_, exec_hardReset_or_backlight he, ?_⟩
  all_goals rw [exec_next_iff] at he; subst he
  · exact run_hostSide _ _ s
  · exact run_keepsSurface _ _ s (no_turn_actionsOf _ _ _ i hi)
  · exact run_level _ .rst _ s (no_rst_actionsOf _ _ _ i hi)
  · exact run_level _ .bl _ s (no_bl_actionsOf _ _ _ i hi)
  · rintro ⟨b, rfl⟩
    exact ⟨writeByte_cs _ s b, writeByte_dc _ s b⟩

/-- Settles O45: no action forgets the last byte. -/
theorem lastByteIsNeverForgotten : Obligations.LastByteIsNeverForgotten := by
  intro i s t he h
  rw [exec_next_iff] at he
  subst he
  exact run_last_ne_none _ _ s h

/-! ### Delays (R114) -/

/-- How many of the actions are delays. -/
def delayActs (as : List Act) : Nat :=
  as.countP fun a => match a with
    | .delay _ => true
    | _ => false

@[simp] theorem delayActs_append (as bs : List Act) :
    delayActs (as ++ bs) = delayActs as + delayActs bs := List.countP_append

theorem delayCount_byteEvents (c : Config) (last : Option Byte) (v : Byte) :
    delayCount (byteEvents c last v) = 0 := by
  unfold byteEvents
  split <;> rfl

/-- An action emits a `DELAY` exactly when it is one. -/
theorem delayCount_run (c : Config) (as : List Act) (s : State) :
    delayCount (run c as s).trace = delayCount s.trace + delayActs as := by
  induction as generalizing s with
  | nil => rfl
  | cons a as ih =>
    rw [run_cons, ih]
    cases a with
    | line l v => simp [delayCount, delayActs]
    | byte b =>
      have := delayCount_byteEvents c s.last b
      simp_all [delayCount, delayActs]
    | delay d => simp [delayCount, delayActs]; omega
    | turn q => simp [delayActs]

theorem OfFrames.delayActs_eq_zero {as : List Act} (h : OfFrames as) : delayActs as = 0 :=
  List.countP_eq_zero.2 fun a ha => by
    cases a with
    | delay t => exact absurd ha (h.not_mem rfl)
    | _ => simp

@[simp] theorem delayActs_frame (cmd : Option Byte) (data : Option (List Byte)) :
    delayActs (frame cmd data) = 0 := (ofFrames_frame cmd data).delayActs_eq_zero

@[simp] theorem delayActs_orient (c : Config) (r : Int) : delayActs (orientActions c r) = 0 :=
  delayActs_frame _ _

/-- R112: three of the pulse, and one after each of the other seven steps. -/
theorem delayActs_init (c : Config) (r : Int) : delayActs (initActions c r) = 10 := by
  simp only [initActions, sleepActions, colorModeActions, invertActions, normalOnActions,
    displayOnActions, delayActs_append, delayActs_frame, delayActs_orient]
  rfl

/-- Settles O35: the delays of a request are its delay actions. -/
theorem onlyHardResetAndInitDelay : Obligations.OnlyHardResetAndInitDelay := by
  intro i s t he
  rw [exec_next_iff] at he
  rw [← he, delayCount_run]
  congr 1
  by_cases hi : BeyondFrames i
  · obtain rfl | ⟨on, rfl⟩ | ⟨r, rfl⟩ | ⟨r, rfl⟩ := hi
    · rfl
    · rfl
    · exact delayActs_orient _ r
    · exact delayActs_init _ r
  · rw [(ofFrames_actionsOf _ _ _ i hi).delayActs_eq_zero]
    cases i with
    | hardReset => exact absurd (.inl rfl) hi
    | init r => exact absurd (.inr (.inr (.inr ⟨r, rfl⟩))) hi
    | _ => rfl

end Sys2Proof.Proofs.WhoWritesWhat

/-!
PROOFS. Bytes and frames in every state (spec/41_bus_writer.md R80 to R88), and the machine without the
repeated-byte skip (R83).
-/

namespace Sys2Proof.Proofs.Frames

open Sys2Proof.Machine Sys2Proof.Safety Sys2Proof.Laws Sys2Proof.Proofs.BusWriter
  Sys2Proof.Proofs.ResetHazards Sys2Proof.Proofs.WhoWritesWhat

/-- Settles O18: each register's case of `memWrite`. -/
theorem gpioRegisterWrites : Obligations.GpioRegisterWrites := fun _ _ => ⟨rfl, rfl, rfl, rfl⟩

/-- Settles O20: the next state is that of `writeByte_spec`. -/
theorem writeBytePutsItsByteOnTheBus : Obligations.WriteBytePutsItsByteOnTheBus := by
  intro b s h
  have hinv := writeByte_invLast Config.chip s b h
  refine ⟨_, exec_writeByte b s, hinv b (writeByte_last _ s b), writeByte_last _ s b, ?_, hinv⟩
  rw [writeByte_spec _ s b h]

/-! ### Frames without a premise on the pins (R84, R88) -/

/-- The events of bytes depend on the last byte alone, whatever is on the pins. -/
theorem run_bytes_trace (c : Config) (ds : List Byte) (s : State) :
    (run c (ds.map .byte) s).trace = s.trace ++ bytesEvents c s.last ds := by
  induction ds generalizing s with
  | nil => simp [bytesEvents]
  | cons d ds ih =>
    rw [List.map_cons, run_cons, ih]
    simp [bytesEvents]

theorem run_bytes_last (c : Config) (ds : List Byte) (s : State) :
    (run c (ds.map .byte) s).last = lastAfter s.last ds := by
  induction ds generalizing s with
  | nil => rfl
  | cons d ds ih =>
    rw [List.map_cons, run_cons, ih]
    simp [lastAfter]

theorem run_bytes_latched_length (c : Config) (ds : List Byte) (s : State) :
    (run c (ds.map .byte) s).latched.length = s.latched.length + ds.length := by
  induction ds generalizing s with
  | nil => rfl
  | cons d ds ih =>
    obtain ⟨v, hv⟩ := writeByte_latched c s d
    rw [List.map_cons, run_cons, ih, perform_byte, hv]
    simp
    omega

/-- R22: bytes touch no line. -/
theorem run_bytes_dc (c : Config) (ds : List Byte) (s : State) :
    (run c (ds.map .byte) s).dc = s.dc := run_level c .dc _ s (by simp)

theorem run_frame_trace (c : Config) (cmd : Option Byte) (data : Option (List Byte)) (s : State) :
    (run c (frame cmd data) s).trace = s.trace ++ frameEvents c s.last cmd data := by
  cases cmd <;> cases data <;>
    simp [frame, commandPart, dataPart, run_bytes_trace, frameEvents, lastAfter]

theorem run_frame_last (c : Config) (cmd : Option Byte) (data : Option (List Byte)) (s : State) :
    (run c (frame cmd data) s).last = lastAfter s.last (frameBytes cmd data) := by
  cases cmd <;> cases data <;>
    simp [frame, commandPart, dataPart, run_bytes_last, frameBytes, lastAfter]

theorem run_frame_cs (c : Config) (cmd : Option Byte) (data : Option (List Byte)) (s : State) :
    (run c (frame cmd data) s).cs = true := by
  simp [frame]

theorem run_frame_dc (c : Config) (cmd : Option Byte) (data : Option (List Byte)) (s : State) :
    (run c (frame cmd data) s).dc = frameDc s.dc cmd data := by
  cases cmd <;> cases data <;>
    simp [frame, commandPart, dataPart, run_bytes_dc, frameDc]

theorem run_frame_latched_length (c : Config) (cmd : Option Byte) (data : Option (List Byte))
    (s : State) :
    (run c (frame cmd data) s).latched.length = s.latched.length + (frameBytes cmd data).length := by
  have hbyte (t : State) (k : Byte) :
      (t.writeByte c k).latched.length = t.latched.length + 1 := run_bytes_latched_length c [k] t
  cases cmd <;> cases data <;>
    simp [frame, commandPart, dataPart, run_bytes_latched_length, hbyte, frameBytes]
  omega

/-- Settles O22: each field of the next state by its lemma; a frame drives neither the reset line nor
the backlight, and does not turn. -/
theorem frameEventsInEveryState : Obligations.FrameEventsInEveryState := by
  intro cmd data s
  have hframe := ofFrames_frame cmd data
  obtain ⟨horientation, hwidth, hheight⟩ := run_frame_keepsSurface Config.chip cmd data s
  obtain ⟨hrequests, hpayload⟩ := run_hostSide Config.chip (frame cmd data) s
  exact ⟨_, exec_frameRequest cmd data s, run_frame_trace _ cmd data s, run_frame_last _ cmd data s,
    run_frame_cs _ cmd data s, run_frame_dc _ cmd data s,
    run_level _ .rst _ s fun _ => hframe.not_mem rfl,
    run_level _ .bl _ s fun _ => hframe.not_mem rfl,
    horientation, hwidth, hheight, run_frame_latched_length _ cmd data s, hrequests, hpayload⟩

/-- Settles O23: with no byte a frame is its line writes. -/
theorem framesWithNoByte : Obligations.FramesWithNoByte := by
  intro s
  constructor <;>
    simp [exec_runs_actions, actionsOf, frame, commandPart, dataPart, State.drive]

/-! ### A command sent again (R88) -/

/-- Requests performed by `exec` are a run under the chip's configuration. -/
theorem execAll_eq_runRequests (is : List Instr) (s : State) :
    execAll is s = .next (runRequests Config.chip is s) := by
  induction is generalizing s with
  | nil => rfl
  | cons i is ih =>
    rw [execAll, exec_runs_actions]
    exact ih _

/-- R80: a command equal to the last byte writes no register. -/
theorem run_command_repeated (c : Config) (k : Byte) (s : State) (h : s.last = some k) :
    (run c (frame (some k) none) s).outLo = s.outLo ∧
    (run c (frame (some k) none) s).outHi = s.outHi := by
  have hrepeated := writeByte_repeated c ((s.drive .cs false).drive .dc false) k (by simpa using h)
  simp [frame, commandPart, dataPart, hrepeated]

/-- Settles O25: the pulse and the backlight keep the command as last byte, so the frame only strobes
it. -/
theorem lastByteCarriesAcrossFrames : Obligations.LastByteCarriesAcrossFrames := by
  intro k on s t ht
  have hlast : t.last = some k := by
    rw [execAll_eq_runRequests] at ht
    injection ht with ht
    subst ht
    simp [runRequests, actionsOf, backlightActions, hardResetActions, run_frame_last, frameBytes,
      lastAfter]
  refine ⟨_, exec_frameRequest (some k) none t, ?_, run_command_repeated _ k t hlast⟩
  rw [run_frame_trace, hlast]
  simp [frameEvents, byteEvents]

/-! ### The machine without the repeated-byte skip (R83) -/

/-- R83: always writing is writing when no byte is recorded. -/
theorem writeAlways_spec (c : Config) (s : State) (b : Byte) :
    writeAlways c s b =
      { s with
        last := some b
        outLo := latchesWith (fullLo c) (setLo c) s.outLo (some b)
        outHi := latchesWith (fullHi c) (setHi c) s.outHi (some b)
        trace := s.trace ++ byteEvents c none b
        latched := s.latched ++ [⟨s.cs, s.dc, b⟩] } :=
  writeByte_fresh c { s with last := none } b nofun

theorem otherEvents_append (es fs : List Event) :
    otherEvents (es ++ fs) = otherEvents es ++ otherEvents fs := List.filter_append ..

/-- R83: only register writes tell whether a byte was skipped. -/
theorem otherEvents_byteEvents (c : Config) (last : Option Byte) (b : Byte) :
    otherEvents (byteEvents c last b) = [.strobe] := by
  unfold byteEvents
  split <;> rfl

/-- Nothing but register writes tells the two states apart. -/
structure Alike (t u : State) : Prop where
  wires : wiresOf t = wiresOf u
  last : t.last = u.last
  width : t.width = u.width
  height : t.height = u.height
  others : otherEvents t.trace = otherEvents u.trace

/-- R83, the commuting step: a skipped byte is on the pins already, so strobing it is writing it. -/
theorem Alike.perform {c : Config} {t u : State} (h : Alike t u) (hinv : InvLast c t) (a : Act) :
    Alike (perform c t a) (performAlways c u a) := by
  obtain ⟨hwires, hlast, hwidth, hheight, hothers⟩ := h
  simp only [wiresOf, Wires.mk.injEq] at hwires
  obtain ⟨houtLo, houtHi, hcs, hdc, hrst, hbl, hlatched⟩ := hwires
  cases a with
  | byte b =>
    have ht := writeByte_spec c t b hinv
    have hu := writeAlways_spec c u b
    constructor <;>
      simp [performAlways, wiresOf, otherEvents_append, otherEvents_byteEvents, *]
  | line l v => cases l <;> constructor <;> simp [performAlways, wiresOf, otherEvents_append, *]
  | delay d => constructor <;> simp [performAlways, wiresOf, otherEvents_append, *]
  | turn q => constructor <;> simp [performAlways, wiresOf, *]

theorem Alike.run {c : Config} (as : List Act) {t u : State} (h : Alike t u) (hinv : InvLast c t) :
    Alike (run c as t) (as.foldl (performAlways c) u) := by
  induction as generalizing t u with
  | nil => exact h
  | cons a as ih => exact ih (h.perform hinv a) (run_invLast c [a] t hinv)

/-- A request is made of the same actions in both machines, because the sizes agree. -/
theorem Alike.runRequests {c : Config} (is : List Instr) {t u : State} (h : Alike t u)
    (hinv : InvLast c t) : Alike (runRequests c is t) (runAlways c is u) := by
  induction is generalizing t u with
  | nil => exact h
  | cons i is ih =>
    have hi := h.run (actionsOf c t.width t.height i) hinv
    have hrest := ih hi (run_invLast c _ t hinv)
    rw [h.width, h.height] at hrest
    rwa [Machine.runRequests, List.foldl_cons, h.width, h.height]

/-- Settles O26: the simulation `Alike` from a state and itself. -/
theorem skippingRepeatedBytesIsInvisible : Obligations.SkippingRepeatedBytesIsInvisible := by
  intro is s h
  have halike : Alike s s := ⟨rfl, rfl, rfl, rfl, rfl⟩
  obtain ⟨hwires, hlast, -, -, hothers⟩ := halike.runRequests is h
  exact ⟨_, execAll_eq_runRequests is s, congrArg Wires.latched hwires, hwires, hlast, hothers⟩

end Sys2Proof.Proofs.Frames

/-!
PROOFS. The requests that are one frame (spec/42_controller_protocol.md R102 to R110,
spec/43_window.md R130, R131), `ORIENT` (R106 to R108) and `INIT` (R112).
-/

namespace Sys2Proof.Proofs.Operations

open Sys2Proof.Machine Sys2Proof.Safety Sys2Proof.Laws Sys2Proof.Proofs.ResetHazards
  Sys2Proof.Proofs.WhoWritesWhat Sys2Proof.Proofs.Frames

/-! ### Requests that are one frame -/

/-- R84: a request whose actions are a frame answers the state after that frame. -/
theorem exec_of_frame {i : Instr} {s : State} {cmd : Option Byte} {data : Option (List Byte)}
    (hi : actionsOf Config.chip s.width s.height i = frame cmd data) (h : InvLast Config.chip s) :
    exec i s = .next (afterFrame Config.chip cmd data s) := by
  rw [exec_runs_actions, hi, run_frame _ cmd data s h]

/-- Settles O29: six command frames. -/
theorem commandRequestsSendOneByte : Obligations.CommandRequestsSendOneByte := fun _ h =>
  ⟨exec_of_frame rfl h, exec_of_frame rfl h, exec_of_frame rfl h, exec_of_frame rfl h,
    exec_of_frame rfl h, exec_of_frame rfl h⟩

/-- Settles O30: a frame with one data byte. -/
theorem colorModeSendsItsByte : Obligations.ColorModeSendsItsByte := fun _ _ h =>
  exec_of_frame rfl h

/-- Settles O36: two frames of four data bytes. -/
theorem rawAddressFramesAreSentAsGiven : Obligations.RawAddressFramesAreSentAsGiven := fun _ _ _ h =>
  ⟨exec_of_frame rfl h, exec_of_frame rfl h⟩

/-! ### `ORIENT` -/

/-- R16, R107: the sizes by the parity of the index. -/
theorem surface_of_parity (q : Fin 4) :
    surfaceWidth q = (if q.val % 2 = 0 then 320 else 480) ∧
    surfaceHeight q = (if q.val % 2 = 0 then 480 else 320) := by
  revert q
  decide

/-- The state writes of `ORIENT`, with the sizes written out. -/
theorem setOrientation_eq (s : State) (q : Fin 4) :
    s.setOrientation q =
      { s with
        orientation := q
        width := if q.val % 2 = 0 then 320 else 480
        height := if q.val % 2 = 0 then 480 else 320 } := by
  obtain ⟨hwidth, hheight⟩ := surface_of_parity q
  rw [State.setOrientation, hwidth, hheight]

/-- Settles O31: the state writes (`setOrientation_eq`), then a frame with one data byte. -/
theorem orientSetsSizesAndSendsItsByte : Obligations.OrientSetsSizesAndSendsItsByte := by
  intro r q s h hq
  rw [exec_runs_actions, actionsOf, orientActions, rotationIndex_eq r q hq, run_cons, perform_turn,
    run_frame _ _ _ _ (setOrientation_invLast q h), setOrientation_eq]

/-- R106: after `ORIENT` orientation and sizes are those of its index, in any state. -/
theorem run_orient_surface (c : Config) (r : Int) (s : State) :
    (run c (orientActions c r) s).orientation = rotationIndex r ∧
    (run c (orientActions c r) s).width = surfaceWidth (rotationIndex r) ∧
    (run c (orientActions c r) s).height = surfaceHeight (rotationIndex r) :=
  run_frame_keepsSurface c _ _ (s.setOrientation (rotationIndex r))

/-- Settles O32: only the last `ORIENT` counts. -/
theorem orientationCycles : Obligations.OrientationCycles := by
  intro s n
  refine ⟨_, execAll_eq_runRequests _ s, ?_⟩
  have hindex : (rotationIndex n).val = n % 4 := by
    simp only [rotationIndex]
    omega
  rw [List.range_succ, List.map_append, List.map_singleton, runRequests, List.foldl_append]
  obtain ⟨horientation, hwidth, hheight⟩ := run_orient_surface Config.chip n
    (runRequests Config.chip ((List.range n).map fun k : Nat => Instr.orient (k : Int)) s)
  obtain ⟨hwidth', hheight'⟩ := surface_of_parity (rotationIndex n)
  have hparity : n % 4 % 2 = n % 2 := Nat.mod_mod_of_dvd n ⟨2, rfl⟩
  rw [hindex, hparity] at hwidth' hheight'
  refine ⟨(congrArg Fin.val horientation).trans hindex, ?_⟩
  refine (congrArg₂ Prod.mk (hwidth.trans hwidth') (hheight.trans hheight')).trans ?_
  split <;> rfl

/-! ### `INIT` -/

/-- From every state that meets `INV_LAST`, a run of these actions computes `f`. -/
def Computes (c : Config) (as : List Act) (f : State → State) : Prop :=
  ∀ s, InvLast c s → run c as s = f s

theorem Computes.append {c : Config} {as bs : List Act} {f g : State → State}
    (h : Computes c as f) (h' : Computes c bs g) : Computes c (as ++ bs) (g ∘ f) := fun s hs => by
  rw [run_append, h' _ (run_invLast c as s hs), h s hs, Function.comp_apply]

theorem computes_frame (c : Config) (cmd : Option Byte) (data : Option (List Byte)) :
    Computes c (frame cmd data) (afterFrame c cmd data) := fun s hs => run_frame c cmd data s hs

theorem computes_delay (c : Config) (t : Nat) : Computes c [.delay t] (·.emit (.delay t)) :=
  fun _ _ => rfl

theorem computes_backlight (c : Config) (on : Bit) :
    Computes c (backlightActions on) (·.drive .bl on) := fun _ _ => rfl

theorem computes_hardReset :
    Computes Config.chip hardResetActions fun s =>
      { s with
        rst := false
        trace := s.trace ++
          [.line .rst false, .delay 5, .line .rst true, .delay 20, .line .rst false, .delay 150] } :=
  fun s _ => Host.Outcome.next.inj (hardResetPulsesTheLine s)

theorem computes_orient (c : Config) (r : Int) :
    Computes c (orientActions c r)
      (afterFrame c (some c.cmdMadctl) (some [c.rotTable (rotationIndex r)])
        ∘ (·.setOrientation (rotationIndex r))) := fun _ hs =>
  run_frame c _ _ _ (setOrientation_invLast _ hs)

/-! The latches after two bytes, bank by bank. -/

theorem latchesWith_lo_twice (c : Config) (lo : Word) (u v : Byte) :
    latchesWith (fullLo c) (setLo c) (latchesWith (fullLo c) (setLo c) lo (some u)) (some v)
      = latchesWith (fullLo c) (setLo c) lo (some v) := (latchesWith_twice c lo 0 u v).1

theorem latchesWith_hi_twice (c : Config) (hi : Word) (u v : Byte) :
    latchesWith (fullHi c) (setHi c) (latchesWith (fullHi c) (setHi c) hi (some u)) (some v)
      = latchesWith (fullHi c) (setHi c) hi (some v) := (latchesWith_twice c 0 hi u v).2

/-- Settles O34: the eight steps compute one state after another, each overwriting what the one before
left on the pins. -/
theorem initPerformsItsEightSteps : Obligations.InitPerformsItsEightSteps := by
  intro r q s h hq c inv
  have sends := computes_frame c
  have delays := computes_delay c
  have hinit : Computes c (initActions c r) _ :=
    computes_hardReset
    |>.append (sends _ _) |>.append (delays _)
    |>.append (sends _ _) |>.append (delays _)
    |>.append (computes_orient c r) |>.append (delays _)
    |>.append (sends _ _) |>.append (delays _)
    |>.append (sends _ _) |>.append (delays _)
    |>.append (computes_backlight c true) |>.append (delays _)
    |>.append (sends _ _) |>.append (delays _)
  rw [exec_runs_actions, actionsOf, hinit s h, rotationIndex_eq r q hq]
  simp [setOrientation_eq, afterFrame, State.drive, State.emit, frameBytes, frameDc, frameLatches,
    lastAfter, latchesWith_lo_twice, latchesWith_hi_twice, inv]

end Sys2Proof.Proofs.Operations

/-!
PROOFS. Whole windows (spec/43_window.md R134 to R137) and the host layer's `PIXEL` and `FILLRECT`
(R140, R141): what they offer the controller.
-/

namespace Sys2Proof.Proofs.HostLayer

open Sys2Proof.Machine Sys2Proof.Safety Sys2Proof.Laws Sys2Proof.Proofs.ResetHazards
  Sys2Proof.Proofs.WhoWritesWhat Sys2Proof.Proofs.Window Sys2Proof.Proofs.Frames

/-! ### Corners inside the bounds -/

/-- R16: no size is above the panel's longer side. -/
theorem sizes_le {s : State} (h : SizesFollowOrientation s) : s.width ≤ 480 ∧ s.height ≤ 480 := by
  obtain ⟨hwidth, hheight⟩ := h
  rw [hwidth, hheight]
  generalize s.orientation = q
  revert q
  decide

/-- R134: a corner inside the bounds is the value of a 16-bit field. -/
theorem exists_half {v : Int} (h0 : 0 ≤ v) (h : v ≤ 480) : ∃ x : Half, (x.toNat : Int) = v :=
  ⟨BitVec.ofNat 16 v.toNat, by rw [BitVec.toNat_ofNat]; omega⟩

/-- Settles O39: corners inside the bounds are at most 480. -/
theorem validWindowsFitTheFields : Obligations.ValidWindowsFitTheFields := by
  rintro x0 y0 x1 y1 s hsizes ⟨hx0, hx01, hx1, hy0, hy01, hy1⟩
  obtain ⟨hwidth, hheight⟩ := sizes_le hsizes
  obtain ⟨xs, hxs⟩ := exists_half hx0 (by omega)
  obtain ⟨ys, hys⟩ := exists_half hy0 (by omega)
  obtain ⟨xe, hxe⟩ := exists_half (hx0.trans hx01) (by omega)
  obtain ⟨ye, hye⟩ := exists_half (hy0.trans hy01) (by omega)
  refine ⟨xs, ys, xe, ye, hxs, hys, hxe, hye, ?_⟩
  simp only [Instr.wellFormed, fitsField, Bool.and_eq_true, decide_eq_true_eq]
  omega

/-! ### A window as three requests (R135) -/

/-- Settles O40: inside the bounds the actions are those of the three requests one after another. -/
theorem setWindowIsThreeRequests : Obligations.SetWindowIsThreeRequests := by
  intro xs ys xe ye s hin
  rw [exec_runs_actions, actionsOf, setWindowActions_of_inside _ hin, run_append, run_append,
    execAll_eq_runRequests]
  simp only [runRequests, List.foldl_cons, List.foldl_nil, actionsOf]

/-- R134: a window inside the bounds offers its three frames, and leaves the sizes. -/
theorem run_window_latched (c : Config) {xs ys xe ye : Half} {s : State} (h : InvLast c s)
    (hin : WindowInside s xs.toNat ys.toNat xe.toNat ye.toNat) :
    (run c (setWindowActions c s.width s.height xs.toNat ys.toNat xe.toNat ye.toNat) s).latched
      = s.latched ++ windowLatches c xs ys xe ye := by
  have hcol := afterFrame_invLast c (some c.cmdCaset) (some (spanBytes xs xe)) s h
  have hrow := afterFrame_invLast c (some c.cmdRaset) (some (spanBytes ys ye)) _ hcol
  rw [setWindowActions_of_inside c hin, run_append, run_append, run_casetActions c xs xe s h,
    run_rasetActions c ys ye _ hcol, run_ramWrActions c _ hrow]
  simp [afterFrame, windowLatches]

theorem runRequests_cons (c : Config) (i : Instr) (is : List Instr) (s : State) :
    runRequests c (i :: is) s = runRequests c is (run c (actionsOf c s.width s.height i) s) := rfl

/-- R137: a window leaves the sizes, so it stays inside the bounds. -/
theorem window_stays_inside (c : Config) {x0 y0 x1 y1 : Int} {s : State} (i : Instr)
    (hi : ∀ r, i ≠ .orient r ∧ i ≠ .init r) (hin : WindowInside s x0 y0 x1 y1) :
    WindowInside (run c (actionsOf c s.width s.height i) s) x0 y0 x1 y1 := by
  obtain ⟨-, hwidth, hheight⟩ := run_keepsSurface c _ s (no_turn_actionsOf c s.width s.height i hi)
  rwa [WindowInside, hwidth, hheight]

/-- Settles O41: the second window is sent as the first (`run_window_latched`). -/
theorem equalWindowsAreSentAgain : Obligations.EqualWindowsAreSentAgain := by
  intro xs ys xe ye s h hin
  refine ⟨_, execAll_eq_runRequests _ s, ?_⟩
  have hin' := window_stays_inside Config.chip
    (.setWindow xs.toNat ys.toNat xe.toNat ye.toNat) (by simp) hin
  rw [runRequests_cons, runRequests_cons]
  exact (run_window_latched _ (run_invLast _ _ s h) hin').trans
    (congrArg (· ++ _) (run_window_latched _ h hin))

/-! ### Data frames (R140, R141) -/

/-- Bytes strobed with chip select low and the data line high. -/
def dataLatches (ds : List Byte) : List Latch := ds.map (Latch.mk false true)

/-- Data frames one after another offer their bytes, whatever they are cut into. -/
theorem runRequests_dataFrames (c : Config) (dss : List (List Byte)) (s : State) (h : InvLast c s) :
    (runRequests c (dss.map .writeFrameData) s).latched = s.latched ++ dataLatches dss.flatten := by
  induction dss generalizing s with
  | nil => simp [runRequests, dataLatches]
  | cons ds dss ih =>
    rw [List.map_cons, runRequests_cons, ih _ (run_invLast c _ s h), actionsOf, run_frame c _ _ s h]
    simp [afterFrame, frameLatches, dataLatches]

/-- The payloads of the bursts of `n` pixels. -/
def burstPayloads (n : Nat) (color : Half) : List (List Byte) :=
  List.replicate (n / Config.burstPixels) (pixelBytes Config.burstPixels color)
    ++ if n % Config.burstPixels = 0 then [] else [pixelBytes (n % Config.burstPixels) color]

theorem burstRequests_eq (n : Nat) (color : Half) :
    burstRequests n color = (burstPayloads n color).map .writeFrameData := by
  rw [burstRequests, burstPayloads]
  split <;> simp

theorem pixelBytes_add (m n : Nat) (color : Half) :
    pixelBytes (m + n) color = pixelBytes m color ++ pixelBytes n color := by
  rw [pixelBytes, ← List.replicate_append_replicate, List.flatten_append, pixelBytes, pixelBytes]

theorem flatten_replicate_pixelBytes (m n : Nat) (color : Half) :
    (List.replicate m (pixelBytes n color)).flatten = pixelBytes (n * m) color := by
  induction m with
  | zero => simp [pixelBytes]
  | succ m ih => 
    rw [List.replicate_succ, List.flatten_cons, ih, ← pixelBytes_add, Nat.mul_succ, Nat.add_comm]

/-- R141: the bursts hold every pixel, whatever their size. -/
theorem flatten_burstPayloads (n : Nat) (color : Half) :
    (burstPayloads n color).flatten = pixelBytes n color := by
  have hn : Config.burstPixels * (n / Config.burstPixels) + n % Config.burstPixels = n :=
    Nat.div_add_mod n _
  rw [burstPayloads, List.flatten_append, flatten_replicate_pixelBytes]
  conv_rhs => rw [← hn, pixelBytes_add]
  split
  next h => simp [h, pixelBytes]
  next => simp

/-- R140, R141: a window inside the bounds, then data frames. -/
theorem runRequests_window_dataFrames (c : Config) {xs ys xe ye : Half} {s : State}
    (h : InvLast c s) (hin : WindowInside s xs.toNat ys.toNat xe.toNat ye.toNat)
    (dss : List (List Byte)) :
    (runRequests c
        (.setWindow xs.toNat ys.toNat xe.toNat ye.toNat :: dss.map .writeFrameData) s).latched
      = s.latched ++ (windowLatches c xs ys xe ye ++ dataLatches dss.flatten) := by
  rw [runRequests_cons, runRequests_dataFrames c dss _ (run_invLast c _ s h), actionsOf,
    run_window_latched c h hin, List.append_assoc]

/-- R141: `FILLRECT` of a rectangle whose window is inside the bounds. -/
theorem fillRect_latched (c : Config) {x y w h : Nat} (color : Half) {s : State} (hs : InvLast c s)
    (hsizes : SizesFollowOrientation s) (hw : 1 ≤ w) (hh : 1 ≤ h) (hx : x + w ≤ s.width + 1)
    (hy : y + h ≤ s.height + 1) :
    (runRequests c (fillRectRequests x y w h color) s).latched = s.latched ++
      (windowLatches c (BitVec.ofNat 16 x) (BitVec.ofNat 16 y) (BitVec.ofNat 16 (x + w - 1))
          (BitVec.ofNat 16 (y + h - 1))
        ++ dataLatches (pixelBytes (w * h) color)) := by
  obtain ⟨hwidth, hheight⟩ := sizes_le hsizes
  have hx0 : ((BitVec.ofNat 16 x).toNat : Int) = x := by rw [BitVec.toNat_ofNat]; omega
  have hy0 : ((BitVec.ofNat 16 y).toNat : Int) = y := by rw [BitVec.toNat_ofNat]; omega
  have hx1 : ((BitVec.ofNat 16 (x + w - 1)).toNat : Int) = x + w - 1 := by
    rw [BitVec.toNat_ofNat]; omega
  have hy1 : ((BitVec.ofNat 16 (y + h - 1)).toNat : Int) = y + h - 1 := by
    rw [BitVec.toNat_ofNat]; omega
  have hin : WindowInside s (BitVec.ofNat 16 x).toNat (BitVec.ofNat 16 y).toNat
      (BitVec.ofNat 16 (x + w - 1)).toNat (BitVec.ofNat 16 (y + h - 1)).toNat := by
    rw [WindowInside, hx0, hy0, hx1, hy1]
    omega
  have hrun := runRequests_window_dataFrames c hs hin (burstPayloads (w * h) color)
  rwa [hx0, hy0, hx1, hy1, flatten_burstPayloads, ← burstRequests_eq] at hrun

theorem dataLatches_pixelBytes (n : Nat) (color : Half) :
    dataLatches (pixelBytes n color)
      = (List.replicate n [Latch.mk false true (color.extractLsb' 8 8),
          Latch.mk false true (color.extractLsb' 0 8)]).flatten := by
  rw [dataLatches, pixelBytes, List.map_flatten, List.map_replicate]
  rfl

/-- Settles O47: the window, then the bytes of the bursts (`fillRect_latched`). -/
theorem fillRectStreamsEveryPixel : Obligations.FillRectStreamsEveryPixel := by
  intro x y w h color s hs hsizes hw hh hx hy
  refine ⟨_, execAll_eq_runRequests _ s, ?_⟩
  rw [fillRect_latched _ color hs hsizes hw hh hx hy, dataLatches_pixelBytes, List.append_assoc]

end Sys2Proof.Proofs.HostLayer

/-!
PROOFS. What the host layer's sequences do under the receiver contract (spec/43_window.md R138, R142):
an assumption about the controller (log 25).
-/

namespace Sys2Proof.Proofs.ReceiverContract

open Sys2Proof.Machine Sys2Proof.Safety Sys2Proof.Laws Sys2Proof.Proofs.Scroll
  Sys2Proof.Proofs.HostLayer

@[simp] theorem watch_append (c : Config) (width height : Nat) (r : Receiver) (ls ms : List Latch) :
    r.watch c width height (ls ++ ms) = (r.watch c width height ls).watch c width height ms :=
  List.foldl_append

/-- Data bytes with chip select low are received in order. -/
theorem watch_data (c : Config) (width height : Nat) (r : Receiver) (ds : List Byte) :
    r.watch c width height (dataLatches ds) = ds.foldl (Receiver.data width height) r := by
  simp [Receiver.watch, dataLatches, Receiver.observe, List.foldl_map]

/-! ### The window -/

/-- R138: a window with its corners in order is known after its three frames, whatever the controller
was doing, and the write position is its first corner. -/
theorem watch_window (c : Config) (width height : Nat) (r : Receiver) {xs ys xe ye : Half}
    (hc : WindowCodesDiffer c) (hx : xs ≤ xe) (hy : ys ≤ ye) :
    r.watch c width height (windowLatches c xs ys xe ye)
      = { r with col := some (xs, xe), row := some (ys, ye), phase := .writing xs ys none } := by
  obtain ⟨hcr, hcw, hrw⟩ := hc
  have hbytes (first last : Half) :
      spanBytes first last = [hi8 first, lo8 first, hi8 last, lo8 last] := rfl
  simp [windowLatches, watch_command_data, watch_command, hbytes, Receiver.command, hcr.symm,
    hcw.symm, hrw.symm, Receiver.data, Receiver.takeRecord, hi8_append_lo8, Receiver.startWriting,
    hx, hy]

/-! ### Pixels -/

/-- The two bytes of a pixel store it at the write position. -/
theorem receive_pixel (width height : Nat) (color : Half) {r : Receiver} {cx cy : Half}
    (h : r.phase = .writing cx cy none) :
    (be16 color).foldl (Receiver.data width height) r = r.store width height cx cy color := by
  simp [be16, Receiver.data, h, hi8_append_lo8, Receiver.store, Receiver.loseFrame]

/-- R138: inside the window and on the surface a pixel is stored, and the position moves on. -/
theorem store_of_inside {width height : Nat} {r : Receiver} {cx cy xs xe ys ye : Half} (color : Half)
    (hcol : r.col = some (xs, xe)) (hrow : r.row = some (ys, ye)) (hy : cy ≤ ye)
    (hwidth : cx.toNat < width) (hheight : cy.toNat < height) :
    r.store width height cx cy color =
      { r with
        pixels := ((cx, cy), color) :: r.pixels
        phase := if cx = xe then .writing xs (cy + 1) none else .writing (cx + 1) cy none } := by
  simp [Receiver.store, hcol, hrow, hy, hwidth, hheight]

/-- Settles O48: after its window (`watch_window`) the one pixel is stored at its corner. -/
theorem pixelLandsAtItsPlace : Obligations.PixelLandsAtItsPlace := by
  intro c x y color s r hc hs hsizes hx hy
  have hin : WindowInside s x.toNat y.toNat x.toNat y.toNat := by
    rw [WindowInside]
    omega
  refine ⟨_, runRequests_window_dataFrames c hs hin [be16 color], ?_⟩
  rw [watch_append, watch_window c _ _ r hc (BitVec.le_refl x) (BitVec.le_refl y), watch_data,
    List.flatten_singleton, receive_pixel _ _ _ rfl,
    store_of_inside color rfl rfl (BitVec.le_refl y) hx hy]

/-! ### A rectangle, pixel by pixel -/

/-- The pixels of the rectangle before column `i` of its row `j`. -/
abbrev Before (x y w i j px py : Nat) : Prop :=
  x ≤ px ∧ px < x + w ∧ y ≤ py ∧ (py < y + j ∨ py = y + j ∧ px < x + i)

/-- What the controller knows when the rectangle is filled up to column `i` of its row `j`. -/
structure FilledTo (x y w h : Nat) (color : Half) (before : Receiver) (i j : Nat) (r : Receiver) :
    Prop where
  col : r.col = some (BitVec.ofNat 16 x, BitVec.ofNat 16 (x + w - 1))
  row : r.row = some (BitVec.ofNat 16 y, BitVec.ofNat 16 (y + h - 1))
  phase : r.phase = .writing (BitVec.ofNat 16 (x + i)) (BitVec.ofNat 16 (y + j)) none
  pixels : ∀ px py : Half,
    r.pixel px py = if Before x y w i j px.toNat py.toNat then some color else before.pixel px py

theorem before_next_column {x y w i j px py : Nat} (hi : i < w) :
    Before x y w (i + 1) j px py ↔ (px = x + i ∧ py = y + j) ∨ Before x y w i j px py := by
  omega

theorem before_next_row {x y w j px py : Nat} :
    Before x y w 0 (j + 1) px py ↔ Before x y w w j px py := by
  omega

section
variable {width height x y w h i j : Nat} {color : Half} {before r : Receiver}

theorem pixel_of_stored {cx cy px py : Half} {p : Phase} :
    Receiver.pixel { r with pixels := ((cx, cy), color) :: r.pixels, phase := p } px py
      = if px = cx ∧ py = cy then some color else r.pixel px py := by
  simp only [Receiver.pixel, List.lookup_cons]
  split <;> simp_all

variable (hx : x + w ≤ width) (hy : y + h ≤ height) (hwidth : width ≤ 480) (hheight : height ≤ 480)
include hx hy hwidth hheight

/-- One more pixel of the rectangle is stored at the write position. -/
theorem FilledTo.stores (hr : FilledTo x y w h color before i j r) (hi : i < w) (hj : j < h) :
    (be16 color).foldl (Receiver.data width height) r =
      { r with
        pixels := ((BitVec.ofNat 16 (x + i), BitVec.ofNat 16 (y + j)), color) :: r.pixels
        phase := if i + 1 = w then .writing (BitVec.ofNat 16 x) (BitVec.ofNat 16 (y + (j + 1))) none
          else .writing (BitVec.ofNat 16 (x + (i + 1))) (BitVec.ofNat 16 (y + j)) none } := by
  have hlast : BitVec.ofNat 16 (x + i) = BitVec.ofNat 16 (x + w - 1) ↔ i + 1 = w := by
    rw [← BitVec.toNat_inj, BitVec.toNat_ofNat, BitVec.toNat_ofNat]
    omega
  have hsucc (v : Nat) : BitVec.ofNat 16 v + 1 = BitVec.ofNat 16 (v + 1) :=
    (BitVec.ofNat_add v 1).symm
  rw [receive_pixel _ _ _ hr.phase, store_of_inside color hr.col hr.row
    (by rw [BitVec.le_def, BitVec.toNat_ofNat, BitVec.toNat_ofNat]; omega)
    (by rw [BitVec.toNat_ofNat]; omega) (by rw [BitVec.toNat_ofNat]; omega)]
  simp only [hlast, hsucc, Nat.add_assoc]

/-- Its colour is known at every pixel up to it. -/
theorem FilledTo.pixels_after (hr : FilledTo x y w h color before i j r) (hi : i < w) (hj : j < h)
    (px py : Half) :
    ((be16 color).foldl (Receiver.data width height) r).pixel px py
      = if Before x y w (i + 1) j px.toNat py.toNat then some color else before.pixel px py := by
  have hat : (px = BitVec.ofNat 16 (x + i) ∧ py = BitVec.ofNat 16 (y + j))
      ↔ px.toNat = x + i ∧ py.toNat = y + j := by
    rw [← BitVec.toNat_inj, ← BitVec.toNat_inj, BitVec.toNat_ofNat, BitVec.toNat_ofNat]
    omega
  rw [hr.stores hx hy hwidth hheight hi hj, pixel_of_stored, hr.pixels]
  simp only [hat, before_next_column hi]
  split <;> simp [*]

theorem FilledTo.next_column (hr : FilledTo x y w h color before i j r) (hi : i + 1 < w)
    (hj : j < h) :
    FilledTo x y w h color before (i + 1) j ((be16 color).foldl (Receiver.data width height) r) := by
  have hstores := hr.stores hx hy hwidth hheight (by omega) hj
  refine ⟨?_, ?_, ?_, hr.pixels_after hx hy hwidth hheight (by omega) hj⟩
  all_goals rw [hstores]
  · exact hr.col
  · exact hr.row
  · exact if_neg hi.ne

theorem FilledTo.next_row (hr : FilledTo x y w h color before i j r) (hi : i + 1 = w)
    (hj : j < h) :
    FilledTo x y w h color before 0 (j + 1)
      ((be16 color).foldl (Receiver.data width height) r) := by
  have hstores := hr.stores hx hy hwidth hheight (by omega) hj
  refine ⟨?_, ?_, ?_, fun px py => ?_⟩
  · rw [hstores]
    exact hr.col
  · rw [hstores]
    exact hr.row
  · rw [hstores]
    exact if_pos hi
  · rw [hr.pixels_after hx hy hwidth hheight (by omega) hj px py, hi]
    simp only [before_next_row]

/-- Pixels within a row. -/
theorem FilledTo.columns (hr : FilledTo x y w h color before 0 j r) (hj : j < h) (hi : i < w) :
    FilledTo x y w h color before i j
      ((pixelBytes i color).foldl (Receiver.data width height) r) := by
  induction i with
  | zero => exact hr
  | succ i ih =>
    rw [pixelBytes_add, List.foldl_append]
    simpa [pixelBytes] using (ih (by omega)).next_column hx hy hwidth hheight hi hj

/-- A row of pixels. -/
theorem FilledTo.whole_row (hr : FilledTo x y w h color before 0 j r) (hj : j < h) (hw : 1 ≤ w) :
    FilledTo x y w h color before 0 (j + 1)
      ((pixelBytes w color).foldl (Receiver.data width height) r) := by
  obtain ⟨w', rfl⟩ : ∃ w', w = w' + 1 := ⟨w - 1, by omega⟩
  rw [pixelBytes_add, List.foldl_append]
  simpa [pixelBytes] using
    (hr.columns hx hy hwidth hheight hj (Nat.lt_succ_self w')).next_row hx hy hwidth hheight rfl hj

/-- Rows of pixels. -/
theorem FilledTo.rows (hr : FilledTo x y w h color before 0 0 r) (hw : 1 ≤ w) (hj : j ≤ h) :
    FilledTo x y w h color before 0 j
      ((pixelBytes (w * j) color).foldl (Receiver.data width height) r) := by
  induction j with
  | zero => exact hr
  | succ j ih =>
    rw [Nat.mul_succ, pixelBytes_add, List.foldl_append]
    exact (ih (by omega)).whole_row hx hy hwidth hheight hj hw

end

/-- Settles O49: from the first corner that the window sets (`watch_window`) the rows are filled one
after another (`FilledTo.rows`). -/
theorem fillRectPaintsItsRectangle : Obligations.FillRectPaintsItsRectangle := by
  intro c x y w h color s r hc hs hsizes hw hh hx hy
  obtain ⟨hwidth, hheight⟩ := sizes_le hsizes
  refine ⟨_, fillRect_latched c color hs hsizes hw hh (by omega) (by omega), fun px py => ?_⟩
  rw [watch_append, watch_window c _ _ r hc, watch_data]
  · have hstart : FilledTo x y w h color r 0 0
        { r with
          col := some (BitVec.ofNat 16 x, BitVec.ofNat 16 (x + w - 1))
          row := some (BitVec.ofNat 16 y, BitVec.ofNat 16 (y + h - 1))
          phase := .writing (BitVec.ofNat 16 x) (BitVec.ofNat 16 y) none } :=
      ⟨rfl, rfl, rfl, fun px py => (if_neg (by omega)).symm⟩
    rw [(hstart.rows hx hy hwidth hheight hw (le_refl h)).pixels]
    exact if_congr (by omega) rfl rfl
  · rw [BitVec.le_def, BitVec.toNat_ofNat, BitVec.toNat_ofNat]
    omega
  · rw [BitVec.le_def, BitVec.toNat_ofNat, BitVec.toNat_ofNat]
    omega

end Sys2Proof.Proofs.ReceiverContract
